-- ==== Sys2Proof/Word.lean ====
section
/-! DEFINITION. The widths of 00_scope.md rule R10: every value of the engine is an unsigned bit vector. -/

namespace Sys2Proof

/-- One byte: the addressable unit of the expander register space (R40). -/
abbrev Byte := BitVec 8

/-- A 16-bit value: bits 7:0 are bank A, bits 15:8 are bank B (R10). -/
abbrev Word := BitVec 16

/-- A command word `CMD[23:0]` (R70). -/
abbrev CmdWord := BitVec 24

/-- The `SEL` field, a slot index: bit 3 is the bank, bits 2:0 the bit index (R22, R70). -/
abbrev Slot := BitVec 4

/-- An 8-bit register address (R40). -/
abbrev RegAddr := BitVec 8

/-- A 7-bit device address (R7, R21). -/
abbrev DevAddr := BitVec 7

end Sys2Proof
end

