-- ==== Sys2Proof/Config.lean ====
section
/-! DEFINITION. The engine's implementation parameters (R6, R8) as plain data, and the free values: what a latch
holds while no rule reads it. -/

namespace Sys2Proof

/-- The addressing mode, "exactly three values" (R6). -/
inductive Mode where
  | chip | port | pin
deriving DecidableEq, Repr

/-- "Bank: one of two independent 8-bit register groups (A, B) inside the chip" (R10, glossary of 00_scope.md). -/
inductive Bank where
  | A | B
deriving DecidableEq, Repr

/-- The ten register kinds, each once per bank (R40, R42). -/
inductive RegKind where
  | dir | ipol | inten | intdef | intcmp | pull | intf | intcap | gpio | olat
deriving DecidableEq, Repr

/-- The parameter `REG_ADDR`, as its bank A column (R42): one byte a kind. The bank B address of a kind is the bank A
address plus one (R46, R47 (a)), so a table that breaks R47 (a) cannot be written down (log entry 19). -/
structure RegTable where
  dir    : RegAddr
  ipol   : RegAddr
  inten  : RegAddr
  intdef : RegAddr
  intcmp : RegAddr
  pull   : RegAddr
  intf   : RegAddr
  intcap : RegAddr
  gpio   : RegAddr
  olat   : RegAddr
deriving DecidableEq, Repr

/-- Which register space stands behind the transport: `plain` changes exactly the register a write names (the general
environment of R60, its other changes being environment turns, and the mock bus of R61); `coupled` is the mock chip of
R62, where a write of `GPIO` also sets `OLAT` of the same bank. A read changes no register in either (log entry 21). -/
inductive ChipModel where
  | plain | coupled
deriving DecidableEq, Repr

/-- The elaboration parameters of one engine (R6, R8, and the table of OPEN parameters of 92_eei_decisions.md). They
are arguments of the whole machine: `State` carries them so that one `step` serves every build, and no step writes
them (log entry 1). -/
structure Params where
  mode          : Mode
  regs          : RegTable
  dirIn         : Bool
  pullHigh      : Bool
  intenOn       : Bool
  intcmpDefault : Bool
  latchReadback : Bool
  chip          : ChipModel
deriving DecidableEq, Repr

/-- FREE VALUE (log entry 2): the 24 bits `opreg` holds where R20, R103 and R190 leave it unspecified or meaningless;
the argument is the state's counter of free draws. Nothing constrains it. -/
opaque Config.freeOpreg : Nat → CmdWord

/-- FREE VALUE (log entry 2): the 2 bits `step` holds after a command has ended (R20 "meaningful only while `Busy`",
R103 "become meaningless"). -/
opaque Config.freeStep : Nat → BitVec 2

/-- FREE VALUE (log entry 2): the 16 bits `CUR` holds at acceptance ("CUR undefined", R113), after a command has ended
(R103) and after a Reset step (R190). -/
opaque Config.freeCur : Nat → Word

end Sys2Proof
end

