-- ==== Sys2Proof/Machine/Defaults.lean ====
section
/-! DEFINITION. The default values of the parameters (R8, R42), and the reset inputs the spec leaves to the platform. -/

namespace Sys2Proof.Machine

/-- The default `REG_ADDR` (R42, bank A column; [from general knowledge, not in source] as the spec marks it, log
entry 3). -/
def defaultRegs : RegTable :=
  { dir := 0x00, ipol := 0x02, inten := 0x04, intdef := 0x06, intcmp := 0x08,
    pull := 0x0C, intf := 0x0E, intcap := 0x10, gpio := 0x12, olat := 0x14 }

/-- The default parameters of R8 for a mode: polarities 1, `LATCH_READBACK` true. The environment is OPEN in the spec
(92_eei_decisions.md, "Parameters left OPEN": oracle, mock bus or mock chip): the plain register space is the model's
own choice; DESIGN CHOICE, log entry 23. -/
def defaultParams (m : Mode) : Params :=
  { mode := m, regs := defaultRegs, dirIn := true, pullHigh := true, intenOn := true,
    intcmpDefault := true, latchReadback := true, chip := .plain }

/-- The mode of `State.reset`: the spec gives three and no default (R6); DESIGN CHOICE, log entry 4. -/
def resetMode : Mode := .pin

/-- The `dev_addr` input of `State.reset`: the spec gives none; its programs start from `Reset(0x20)`
(95_test_vectors.md part 3); DESIGN CHOICE, log entry 5. -/
def resetDevAddr : DevAddr := 0x20

end Sys2Proof.Machine
end

