-- ==== Sys2Proof/Machine/State.lean ====
section
/-! DEFINITION. The state of the engine (R20), of the transport and of the environment (R27, R40, R61), as plain data. -/

namespace Sys2Proof.Machine

/-- The capability tag of a handle, the three values of R23 (`0b11` "a model need not represent it"). -/
inductive Tag where
  | unconfigured | output | input
deriving DecidableEq, Repr

/-- `phase` (R20, R26). -/
inductive Phase where
  | idle | busy
deriving DecidableEq, Repr

/-- The transport's error value, the nonempty opaque type `TErr` (R8, D13): a code the engine only passes through
(R49). Its width is OPEN, so any number is allowed (log entry 6). -/
structure TErr where
  code : Nat
deriving DecidableEq, Repr

/-- The four statuses (R81). -/
inductive Status where
  | ok | busError | gated | illegal
deriving DecidableEq, Repr

/-- One response (R80). `err` is the side-band `ERR`: present exactly with `BUS_ERROR`, since elsewhere it is
"unspecified and not to be read" (log entry 7). -/
structure Response where
  status : Status
  rdata  : Word
  err    : Option TErr
deriving DecidableEq, Repr

/-- The two transaction shapes of the transport interface (R48). -/
inductive Request where
  | rd (dev : DevAddr) (a : RegAddr)
  | wr (dev : DevAddr) (a : RegAddr) (v : Byte)
deriving DecidableEq, Repr

/-- How the transport ends one transaction (R48, R49). `ok` is `Ok` for a write and `Ok(byte)` for a read, the byte
being the register's content at that moment (R50; log entry 12); a completion of the wrong kind, which has no step
(R113), cannot be written down (log entry 13). `landed` says what a failed write left: the new byte (true) or the old
one (false) (R51, R204; log entry 14). -/
inductive Completion where
  | ok
  | err (e : TErr) (landed : Bool)
deriving DecidableEq, Repr

/-- A step the host asks for (R9): a command word, or Reset with the value on the `dev_addr` input. -/
inductive HostReq where
  | issue (cmd : CmdWord)
  | reset (dev : DevAddr)
deriving DecidableEq, Repr

/-- A turn of the environment (R9, R58): it writes one byte of the expander register space, or passes. -/
inductive EnvTurn where
  | pass
  | write (dev : DevAddr) (a : RegAddr) (v : Byte)
deriving DecidableEq, Repr

/-- One entry of the mock bus's log of successful transactions (R61). -/
inductive LogEntry where
  | rd (dev : DevAddr) (a : RegAddr) (x : Byte)
  | wr (dev : DevAddr) (a : RegAddr) (v : Byte)
deriving DecidableEq, Repr

/-- The working latch `CUR` (R25) as its two bytes: `CUR[7:0]`, written by the first read of a command, and
`CUR[15:8]`, written by the second. -/
structure Latch where
  lo : Byte
  hi : Byte
deriving DecidableEq, Repr

/-- The content of the expander register space: cells sorted by address, none of them equal to what an unlisted
address reads as (`Memory.wf`). The address of register `a` of device `d` is `256 * d + a` (R40: 7 bits and 8 bits). -/
abbrev Memory := List Host.Cell

/-- What an address of the register space reads as that nothing has written (log entry 8: DESIGN CHOICE). -/
def Memory.unlisted : Byte := 0x00

/-- The canonical form above a lower bound. -/
def Memory.wfFrom : Nat → Memory → Bool
  | _, [] => true
  | lo, (a, v) :: m => decide (lo ≤ a) && decide (a < 32768) && (v != Memory.unlisted) && Memory.wfFrom (a + 1) m

/-- The canonical form of the register space: addresses strictly rising and inside the 15-bit space, no listed byte
equal to `Memory.unlisted`. -/
def Memory.wf (m : Memory) : Bool := Memory.wfFrom 0 m

/-- The whole machine. The first seven fields after `params` are R20's tuple; `output` is the response event of the
step just taken (R28); `mem` is the expander register space (R40); `log` and `issued` are what the mock bus records
(R61); the next three are the future inputs of the host, the transport and the environment (R9); `fresh` numbers the
free values drawn so far. -/
structure State where
  /-- The elaboration parameters (R6, R8); no step writes them. -/
  params  : Params
  /-- `DEV_ADDR` (R21). -/
  devAddr : DevAddr
  /-- `tag[s]` for the sixteen values of `SEL`; those that are no slot of `MODE` stay `Unconfigured` (R22, R23;
  log entry 15). -/
  tags    : Vector Tag 16
  /-- `phase` (R26). -/
  phase   : Phase
  /-- `opreg`, the command being executed (R20). -/
  opreg   : CmdWord
  /-- `step`, the index of the outstanding transaction (R20, R26). -/
  stepNo  : BitVec 2
  /-- `CUR`, the working latch (R25). -/
  cur     : Latch
  /-- The response emitted by the step that led here, none if it emitted none (R28, R80); the MODEL's own
  field (log entry 16). -/
  output  : Option Response
  /-- The expander register space (R40). -/
  mem     : Memory
  /-- The log of successful transactions, oldest first (R61; log entry 16). -/
  log     : List LogEntry
  /-- How many transactions the engine has presented to the transport (R61 "counts as issued";
  log entry 16). -/
  issued  : Nat
  /-- The host's requests still to come, oldest first (R9, R57); the MODEL's own field (log entry 11). -/
  hostIn  : List HostReq
  /-- The transport's answers still to come, one per transaction (R9, R49); the MODEL's own field (log
  entry 11). -/
  busIn   : List Completion
  /-- The environment's turns still to come: one is offered before every step (R58); the MODEL's own field
  (log entry 11). -/
  envIn   : List EnvTurn
  /-- The counter of free values (log entry 2); the MODEL's own field. -/
  fresh   : Nat
deriving DecidableEq, Repr

/-- Why the machine is stuck. Both are states no rule of the spec describes and no run from reset reaches
(log entry 20). -/
inductive Fault where
  /-- Raised by `transportMove`: `Busy` while `opreg` holds no command of this engine. Safe: the spec has no step
  there (R113), and the model stops. -/
  | busyWithoutCommand
  /-- Raised by `completeStep`: `Busy` while `step` is past the end of the command's plan. Safe, for the same reason. -/
  | stepBeyondPlan
deriving DecidableEq, Repr

/-- Why an instruction has no meaning. -/
inductive Refusal where
  /-- Raised by `exec`'s rejected arms only: the instruction is not modelled. Safe: nothing can be proved of it. -/
  | notModelled (mnemonic : String)
deriving DecidableEq, Repr

/-- The machine right after reset (R190): every tag `Unconfigured`, `Idle`, `step` 0, `DEV_ADDR` the value on its
input, no transaction issued (R191). `opreg` and `CUR`, unspecified in R190, hold 0 (log entry 9); the register space
lists nothing (log entry 8); no agent has an input yet. -/
def State.reset : State :=
  { params := defaultParams resetMode, devAddr := resetDevAddr, tags := Vector.replicate 16 .unconfigured,
    phase := .idle, opreg := 0, stepNo := 0, cur := { lo := 0, hi := 0 }, output := none, mem := [], log := [], issued := 0,
    hostIn := [], busIn := [], envIn := [], fresh := 0 }

end Sys2Proof.Machine
end

