-- ==== Sys2Proof/Machine/Flags.lean ====
section
/-! DEFINITION. The engine has no flag register (R28); what takes its place is the response that ends a command: its
status and its data (R80 to R82). -/

namespace Sys2Proof.Machine

/-- The 2-bit status code (R81). -/
def statusCode (st : Status) : BitVec 2 :=
  match st with
  | .ok       => 0b00
  | .busError => 0b01
  | .gated    => 0b10
  | .illegal  => 0b11

/-- The 18-bit response word: `STATUS` in bits 17:16, `RDATA` in bits 15:0 (R80). -/
def responseWord (r : Response) : BitVec 18 := statusCode r.status ++ r.rdata

/-- `respond OK(d)` (R10, R82). -/
def okResponse (d : Word) : Response := { status := .ok, rdata := d, err := none }

/-- The response to a transaction that completed `Err(e)`: the error value passed through, no data (R82, R103, R161). -/
def busErrorResponse (e : TErr) : Response := { status := .busError, rdata := 0, err := some e }

/-- `refuse GATED` (R82, R162). -/
def gatedResponse : Response := { status := .gated, rdata := 0, err := none }

/-- `refuse ILLEGAL` (R82, R163). -/
def illegalResponse : Response := { status := .illegal, rdata := 0, err := none }

/-- The 2-bit encoding of a capability tag (R23). -/
def tagCode (t : Tag) : BitVec 2 :=
  match t with
  | .unconfigured => 0b00
  | .output       => 0b01
  | .input        => 0b10

end Sys2Proof.Machine
end

