-- ==== Sys2Proof/Syntax.lean ====
section
/-! DEFINITION. The nine commands of 30_encoding.md rule R76, one constructor per row of the opcode table. -/

namespace Sys2Proof

/-- A command: the opcode is the constructor, `s` is `SEL`, `val` is `DATA` where the command has an operand (R70,
R74). A command without an operand has no data to hold, since its `DATA` is zero (R73). -/
inductive Instr where
  | cfgOut  (s : Slot)
  | cfgIn   (s : Slot)
  | write   (s : Slot) (val : Word)
  | read    (s : Slot)
  | rdLatch (s : Slot)
  | setPull (s : Slot) (val : Word)
  | intEn   (s : Slot) (val : Word)
  | intMode (s : Slot) (val : Word)
  | intDef  (s : Slot) (val : Word)
deriving DecidableEq, Repr

/-- The operation of a command without its operands: the row of the opcode map (R76) and of the gate (R170). -/
inductive Op where
  | cfgOut | cfgIn | write | read | rdLatch | setPull | intEn | intMode | intDef
deriving DecidableEq, Repr

/-- The operation of a command. -/
def Instr.op : Instr → Op
  | .cfgOut _    => .cfgOut
  | .cfgIn _     => .cfgIn
  | .write _ _   => .write
  | .read _      => .read
  | .rdLatch _   => .rdLatch
  | .setPull _ _ => .setPull
  | .intEn _ _   => .intEn
  | .intMode _ _ => .intMode
  | .intDef _ _  => .intDef

/-- The slot a command names: its `SEL` field (R72). -/
def Instr.slot : Instr → Slot
  | .cfgOut s    => s
  | .cfgIn s     => s
  | .write s _   => s
  | .read s      => s
  | .rdLatch s   => s
  | .setPull s _ => s
  | .intEn s _   => s
  | .intMode s _ => s
  | .intDef s _  => s

/-- The `DATA` field: the operand, zero when the command has none (R70, R73). -/
def Instr.data : Instr → Word
  | .cfgOut _    => 0
  | .cfgIn _     => 0
  | .write _ v   => v
  | .read _      => 0
  | .rdLatch _   => 0
  | .setPull _ v => v
  | .intEn _ v   => v
  | .intMode _ v => v
  | .intDef _ v  => v

/-- "Operand" column of R76: whether `DATA` carries `val`. -/
def Op.hasOperand : Op → Bool
  | .cfgOut | .cfgIn | .read | .rdLatch => false
  | .write | .setPull | .intEn | .intMode | .intDef => true

/-- The command of an operation, a slot and a `DATA` field (`DATA` is dropped where the operation has no operand; the
decoder calls this only where it is then zero, R75). -/
def Op.instr (o : Op) (s : Slot) (d : Word) : Instr :=
  match o with
  | .cfgOut  => .cfgOut s
  | .cfgIn   => .cfgIn s
  | .write   => .write s d
  | .read    => .read s
  | .rdLatch => .rdLatch s
  | .setPull => .setPull s d
  | .intEn   => .intEn s d
  | .intMode => .intMode s d
  | .intDef  => .intDef s d

end Sys2Proof
end

