-- ==== Sys2Proof/WellFormed.lean ====
section
/-! DEFINITION. Which commands are legal for the engine's parameters: the `MODE`-dependent checks of R72, R73 and R75. -/

namespace Sys2Proof

/-- The handle width `W` of a mode (R6). -/
def Mode.width : Mode → Nat
  | .chip => 16
  | .port => 8
  | .pin  => 1

/-- The slots that exist in a mode (R22, R72): `Chip` 0; `Port` 0 and 8; `Pin` 0 to 15. -/
def Mode.slotExists (m : Mode) (s : Slot) : Bool :=
  match m with
  | .chip => s == 0
  | .port => s == 0 || s == 8
  | .pin  => true

/-- `DATA[15:W] = 0` (R73). -/
def Mode.operandFits (m : Mode) (d : Word) : Bool :=
  d >>> m.width == 0

/-- Whether the operation exists: `RD_LATCH` only when `LATCH_READBACK` is true (R75 check 2, R77, R126). -/
def Params.opExists (p : Params) (o : Op) : Bool :=
  match o with
  | .rdLatch => p.latchReadback
  | .cfgOut | .cfgIn | .write | .read | .setPull | .intEn | .intMode | .intDef => true

/-- `DATA` validity (R73): an operand fits the handle width; a command without an operand has `DATA = 0`. -/
def Params.dataLegal (p : Params) (o : Op) (d : Word) : Bool :=
  if o.hasOperand then p.mode.operandFits d else d == 0

/-- A command that decodes for these parameters (R75). -/
def Instr.wf (p : Params) (i : Instr) : Bool :=
  p.opExists i.op && p.mode.slotExists i.slot && p.dataLegal i.op i.data

/-- The bank A addresses of the table, in the order of R42. -/
def RegTable.bases (t : RegTable) : List RegAddr :=
  [t.dir, t.ipol, t.inten, t.intdef, t.intcmp, t.pull, t.intf, t.intcap, t.gpio, t.olat]

/-- R47: (a) holds by construction (bank B is bank A plus one); (b) the twenty addresses are distinct; (c) no bank A
address is `0xFF`. -/
def RegTable.valid (t : RegTable) : Bool :=
  decide ((t.bases ++ t.bases.map (· + 1)).Nodup) && t.bases.all (fun a => a != 0xFF)

end Sys2Proof
end

