-- ==== Sys2Proof/Decode.lean ====
section
/-! DEFINITION. The decoder of R75, total on every 24-bit word, and after it the encoder of R70 and R76. -/

namespace Sys2Proof

/-- Why a word does not decode (R78): (a) `reservedOpcode` and `noLatchReadback`, (b) `noSuchSlot`, (c) `badData`. -/
inductive Illegal where
  | reservedOpcode | noLatchReadback | noSuchSlot | badData
deriving DecidableEq, Repr

/-- A decoded command, or the name of the check that failed. -/
inductive Decoded where
  | cmd (i : Instr)
  | illegal (why : Illegal)
deriving DecidableEq, Repr

/-- `OPC`, bits 23:20 (R70). -/
def fieldOpc (w : CmdWord) : BitVec 4 := w.extractLsb' 20 4

/-- `SEL`, bits 19:16 (R70). -/
def fieldSel (w : CmdWord) : Slot := w.extractLsb' 16 4

/-- `DATA`, bits 15:0 (R70). -/
def fieldData (w : CmdWord) : Word := w.extractLsb' 0 16

/-- The opcode map (R76); every other value is reserved (R77). -/
def opOf (c : BitVec 4) : Option Op :=
  match c.toNat with
  | 0x1 => some .cfgOut
  | 0x2 => some .cfgIn
  | 0x3 => some .write
  | 0x4 => some .read
  | 0x5 => some .rdLatch
  | 0x6 => some .setPull
  | 0x7 => some .intEn
  | 0x8 => some .intMode
  | 0x9 => some .intDef
  | _   => none

/-- `decode(CMD, MODE)`, the five lines of R75 in their order. -/
def decode (p : Params) (w : CmdWord) : Decoded :=
  match opOf (fieldOpc w) with
  | none => .illegal .reservedOpcode
  | some o =>
    if p.opExists o = false then .illegal .noLatchReadback
    else if p.mode.slotExists (fieldSel w) = false then .illegal .noSuchSlot
    else if p.dataLegal o (fieldData w) = false then .illegal .badData
    else .cmd (o.instr (fieldSel w) (fieldData w))

/-- The part of decoding that no parameter enters: the opcode, and `DATA = 0` where the row has no operand. It is the
match and mask table of R76. -/
def decodeRow (w : CmdWord) : Option Instr :=
  match opOf (fieldOpc w) with
  | none => none
  | some o =>
    if o.hasOperand = false ∧ fieldData w ≠ 0 then none
    else some (o.instr (fieldSel w) (fieldData w))

/-- The opcode of an operation (R76). -/
def Op.code : Op → BitVec 4
  | .cfgOut  => 0x1
  | .cfgIn   => 0x2
  | .write   => 0x3
  | .read    => 0x4
  | .rdLatch => 0x5
  | .setPull => 0x6
  | .intEn   => 0x7
  | .intMode => 0x8
  | .intDef  => 0x9

/-- `CMD = (OPC << 20) | (SEL << 16) | DATA` (R70), written as the concatenation of the three fields. -/
def encode (i : Instr) : CmdWord :=
  ((i.op.code ++ i.slot : BitVec 8) ++ i.data : BitVec 24)

/-- The host's question about one row of the opcode table: the instruction whose bits are `w`, bits above `nbits`
zero. A command is one 24-bit word (R79), so a number that does not fit in 24 bits is no command. The question names no
parameters, so it is `decodeRow` that answers (log entry 22). -/
def decodeTableWord (nbits w : Nat) : Option Instr :=
  if w % 2 ^ nbits < 2 ^ 24 then decodeRow (BitVec.ofNat 24 (w % 2 ^ nbits)) else none

end Sys2Proof
end

