-- ==== Sys2Proof/Machine/Operands.lean ====
section
/-! DEFINITION. The register decoder, the scope of a handle, the update formula, the plans and the result of each
command: everything the engine computes without changing state (R41 to R47, R50 to R53, R102, R105 to R108, R170). -/

namespace Sys2Proof.Machine

/-- The low byte of a 16-bit value, for bank A (R45). -/
def lowByte (v : Word) : Byte := v.extractLsb' 0 8

/-- The high byte of a 16-bit value, for bank B (R45). -/
def highByte (v : Word) : Byte := v.extractLsb' 8 8

/-- `join(lo, hi) = {hi, lo}` (R45). -/
def joinBytes (lo hi : Byte) : Word := hi ++ lo

/-- `CUR[15:0]` (R25). -/
def Latch.word (c : Latch) : Word := joinBytes c.lo c.hi

/-- A latch from a 16-bit value. -/
def Latch.ofWord (v : Word) : Latch := { lo := lowByte v, hi := highByte v }

/-- `rep(b, n)` of R10, in a 16-bit value: the low `n` bits equal to `b`, the others 0. -/
def rep (b : Bool) (n : Nat) : Word := if b then BitVec.ofNat 16 (2 ^ n - 1) else 0

/-- The bank A address of a kind: `REG_ADDR(k, A)` (R42). -/
def baseAddr (t : RegTable) (k : RegKind) : RegAddr :=
  match k with
  | .dir    => t.dir
  | .ipol   => t.ipol
  | .inten  => t.inten
  | .intdef => t.intdef
  | .intcmp => t.intcmp
  | .pull   => t.pull
  | .intf   => t.intf
  | .intcap => t.intcap
  | .gpio   => t.gpio
  | .olat   => t.olat

/-- The register decoder `addr(k, b)` (R41); bank B is the next address, modulo 256 (R46). -/
def addr (t : RegTable) (k : RegKind) (b : Bank) : RegAddr :=
  match b with
  | .A => baseAddr t k
  | .B => baseAddr t k + 1

/-- The bank of a slot: `s[3]` (R22). -/
def slotBank (s : Slot) : Bank := if s.getLsbD 3 then .B else .A

/-- The bit index of a slot: `s[2:0]` (R22). -/
def slotBit (s : Slot) : Nat := (s.extractLsb' 0 3).toNat

/-- `MASK` (R105). -/
def scopeMask (m : Mode) (s : Slot) : Word :=
  match m with
  | .chip => 0xFFFF
  | .port => 0x00FF
  | .pin  => (1 : Word) <<< slotBit s

/-- `DES`, the operand placed at the handle's bit positions (R105). -/
def scopePlace (m : Mode) (s : Slot) (val : Word) : Word :=
  match m with
  | .chip => val
  | .port => val &&& 0x00FF
  | .pin  => (val &&& 1) <<< slotBit s

/-- `NEW = (CUR & ~MASK) | (DES & MASK)` (R106). -/
def maskedUpdate {n : Nat} (cur mask des : BitVec n) : BitVec n := (cur &&& ~~~mask) ||| (des &&& mask)

/-- `NEW[15:0]` of a `Chip` masked update (R107). -/
def newWord (m : Mode) (s : Slot) (val : Word) (cur : Latch) : Word :=
  maskedUpdate cur.word (scopeMask m s) (scopePlace m s val)

/-- `NEW[7:0] = (CUR[7:0] & ~MASK[7:0]) | (DES[7:0] & MASK[7:0])` of a `Port` or `Pin` masked update (R107): "only the
low byte of `MASK`, `DES`, `CUR` and `NEW` is used" (R105). -/
def newByte (m : Mode) (s : Slot) (val : Word) (cur : Byte) : Byte :=
  maskedUpdate cur (lowByte (scopeMask m s)) (lowByte (scopePlace m s val))

/-- `extract(s, CUR)` (R108). -/
def extractResult (m : Mode) (s : Slot) (cur : Latch) : Word :=
  match m with
  | .chip => cur.word
  | .port => cur.lo.setWidth 16
  | .pin  => ((cur.lo >>> slotBit s) &&& 1).setWidth 16

/-- The result of a command that returns no value: `0x0000` (R82, R104). -/
def noResult (_cur : Latch) : Word := 0

/-- `read8(a)`: one transaction (R50). -/
def read8 (dev : DevAddr) (a : RegAddr) : List Request := [.rd dev a]

/-- `write8(a, v)`: one transaction (R51). -/
def write8 (dev : DevAddr) (a : RegAddr) (v : Byte) : List Request := [.wr dev a v]

/-- `read16(a_lo)`: the byte at `a_lo`, then the byte at `a_lo + 1` (R52). -/
def read16 (dev : DevAddr) (aLo : RegAddr) : List Request := read8 dev aLo ++ read8 dev (aLo + 1)

/-- `write16(a_lo, v)`: the low byte at `a_lo`, then the high byte at `a_lo + 1` (R53). -/
def write16 (dev : DevAddr) (aLo : RegAddr) (v : Word) : List Request :=
  write8 dev aLo (lowByte v) ++ write8 dev (aLo + 1) (highByte v)

/-- The plan of a masked update `rmw(K, s, val)` (R102, R107), whose write bytes follow from `CUR`. -/
def maskedPlan (k : RegKind) (p : Params) (dev : DevAddr) (s : Slot) (val : Word) (cur : Latch) : List Request :=
  match p.mode with
  | .chip => read16 dev (addr p.regs k .A) ++ write16 dev (addr p.regs k .A) (newWord .chip s val cur)
  | .port => read8 dev (addr p.regs k (slotBank s)) ++
      write8 dev (addr p.regs k (slotBank s)) (newByte .port s val cur.lo)
  | .pin  => read8 dev (addr p.regs k (slotBank s)) ++
      write8 dev (addr p.regs k (slotBank s)) (newByte .pin s val cur.lo)

/-- The plan of a read command (R102): `read16` in `Chip` mode, else `read8` of the slot's bank. -/
def readPlan (k : RegKind) (p : Params) (dev : DevAddr) (s : Slot) : List Request :=
  match p.mode with
  | .chip => read16 dev (addr p.regs k .A)
  | .port => read8 dev (addr p.regs k (slotBank s))
  | .pin  => read8 dev (addr p.regs k (slotBank s))

/-- The operand of `CFG_OUT`: `rep(~DIR_IN, W)` (R107, R115). -/
def outputDirection (p : Params) : Word := rep (!p.dirIn) p.mode.width

/-- The operand of `CFG_IN`: `rep(DIR_IN, W)` (R107, R116). -/
def inputDirection (p : Params) : Word := rep p.dirIn p.mode.width

/-- The plan of `CFG_OUT` (R115). -/
def planCfgOut (p : Params) (dev : DevAddr) (s : Slot) (cur : Latch) : List Request :=
  maskedPlan .dir p dev s (outputDirection p) cur

/-- The plan of `CFG_IN` (R116). -/
def planCfgIn (p : Params) (dev : DevAddr) (s : Slot) (cur : Latch) : List Request :=
  maskedPlan .dir p dev s (inputDirection p) cur

/-- The plan of `WRITE` (R125): in `Chip` mode a direct `write16` with no read, else a masked update of `GPIO`. -/
def planWrite (p : Params) (dev : DevAddr) (s : Slot) (val : Word) (cur : Latch) : List Request :=
  match p.mode with
  | .chip => write16 dev (addr p.regs .gpio .A) val
  | .port => maskedPlan .gpio p dev s val cur
  | .pin  => maskedPlan .gpio p dev s val cur

/-- The plan of `READ` (R135). -/
def planRead (p : Params) (dev : DevAddr) (s : Slot) : List Request := readPlan .gpio p dev s

/-- The plan of `RD_LATCH` (R126). -/
def planRdLatch (p : Params) (dev : DevAddr) (s : Slot) : List Request := readPlan .olat p dev s

/-- The plan of `SET_PULL` (R136). -/
def planSetPull (p : Params) (dev : DevAddr) (s : Slot) (val : Word) (cur : Latch) : List Request :=
  maskedPlan .pull p dev s val cur

/-- The plan of `INT_EN` (R145). -/
def planIntEn (p : Params) (dev : DevAddr) (s : Slot) (val : Word) (cur : Latch) : List Request :=
  maskedPlan .inten p dev s val cur

/-- The plan of `INT_MODE` (R146). -/
def planIntMode (p : Params) (dev : DevAddr) (s : Slot) (val : Word) (cur : Latch) : List Request :=
  maskedPlan .intcmp p dev s val cur

/-- The plan of `INT_DEF` (R147). -/
def planIntDef (p : Params) (dev : DevAddr) (s : Slot) (val : Word) (cur : Latch) : List Request :=
  maskedPlan .intdef p dev s val cur

/-- `plan(op, s, val)` of R102, for every command. -/
def planOf (i : Instr) (p : Params) (dev : DevAddr) (cur : Latch) : List Request :=
  match i with
  | .cfgOut s    => planCfgOut p dev s cur
  | .cfgIn s     => planCfgIn p dev s cur
  | .write s v   => planWrite p dev s v cur
  | .read s      => planRead p dev s
  | .rdLatch s   => planRdLatch p dev s
  | .setPull s v => planSetPull p dev s v cur
  | .intEn s v   => planIntEn p dev s v cur
  | .intMode s v => planIntMode p dev s v cur
  | .intDef s v  => planIntDef p dev s v cur

/-- The length of a command's plan: one to four transactions (R102). -/
def planLength (o : Op) (m : Mode) : Nat :=
  match o with
  | .cfgOut | .cfgIn | .setPull | .intEn | .intMode | .intDef =>
    match m with
    | .chip => 4
    | .port | .pin => 2
  | .write => 2
  | .read | .rdLatch =>
    match m with
    | .chip => 2
    | .port | .pin => 1

/-- `commit` (R104): the tag the last completion of a command writes, if it writes one. -/
def commitTag (o : Op) : Option Tag :=
  match o with
  | .cfgOut => some .output
  | .cfgIn  => some .input
  | .write | .read | .rdLatch | .setPull | .intEn | .intMode | .intDef => none

/-- `result` (R104): `extract(s, CUR)` for the two read commands, `0x0000` for every other (R82). -/
def resultOf (o : Op) (m : Mode) (s : Slot) : Latch → Word :=
  match o with
  | .read | .rdLatch => extractResult m s
  | .cfgOut | .cfgIn | .write | .setPull | .intEn | .intMode | .intDef => noResult

/-- The one tag under which the gate's table permits a command: the column of R170 that says "yes". -/
def requiredTag (o : Op) : Tag :=
  match o with
  | .cfgOut | .cfgIn => .unconfigured
  | .write | .rdLatch => .output
  | .read | .setPull | .intEn | .intMode | .intDef => .input

/-- `permitted(op, t)`, the gate's table (R170). -/
def permitted (o : Op) (t : Tag) : Bool := t == requiredTag o

/-- Bit `i` of a register byte, as a pin's flag (R43: bit `i` of bank `b`'s register concerns pin `(b, i)`). -/
def pinFlag (v : Byte) (i : Nat) : Bool := v.getLsbD i

/-- `DIR` bit: the pin is an Input ("high-impedance, readable") when the bit equals `DIR_IN` (R43). -/
def pinIsInput (p : Params) (v : Byte) (i : Nat) : Bool := pinFlag v i == p.dirIn

/-- `PULL` bit: pull-up enabled (pull High) when the bit equals `PULL_HIGH` (R43). -/
def pinPulledHigh (p : Params) (v : Byte) (i : Nat) : Bool := pinFlag v i == p.pullHigh

/-- `INTEN` bit: interrupt-on-change enabled when the bit equals `INTEN_ON` (R43). -/
def pinInterruptEnabled (p : Params) (v : Byte) (i : Nat) : Bool := pinFlag v i == p.intenOn

/-- `INTCMP` bit: compare-to-default when the bit equals `INTCMP_DEFAULT`, else compare-to-previous (R43). -/
def pinComparesToDefault (p : Params) (v : Byte) (i : Nat) : Bool := pinFlag v i == p.intcmpDefault

end Sys2Proof.Machine
end

