-- ==== Sys2Proof/Machine/Ops.lean ====
section
/-! DEFINITION. The named operations over the state: the register space, the tags, acceptance, the completion of a
transaction, the end of a command (its exceptional end among them) and reset. -/

namespace Sys2Proof.Machine

/-- The byte at an address of the register space. -/
def Memory.read (m : Memory) (a : Nat) : Byte :=
  match m with
  | [] => Memory.unlisted
  | (k, v) :: rest => if k = a then v else Memory.read rest a

/-- Store a byte, keeping the canonical form: the cell is removed when the byte is what an unlisted address reads. -/
def Memory.write (m : Memory) (a : Nat) (v : Byte) : Memory :=
  match m with
  | [] => if v = Memory.unlisted then [] else [(a, v)]
  | (k, x) :: rest =>
    if a < k then (if v = Memory.unlisted then (k, x) :: rest else (a, v) :: (k, x) :: rest)
    else if a = k then (if v = Memory.unlisted then rest else (a, v) :: rest)
    else (k, x) :: Memory.write rest a v

/-- The address pair (device address, register address) as one number (R40; log entry 17). -/
def busKey (dev : DevAddr) (a : RegAddr) : Nat := dev.toNat * 256 + a.toNat

/-- The byte of register `a` of device `dev`. -/
def State.reg (s : State) (dev : DevAddr) (a : RegAddr) : Byte := s.mem.read (busKey dev a)

/-- Set the byte of register `a` of device `dev`; nothing else changes. -/
def State.setReg (s : State) (dev : DevAddr) (a : RegAddr) (v : Byte) : State :=
  { s with mem := s.mem.write (busKey dev a) v }

/-- The latch a write of `a` also sets: `OLAT` of the same bank when `a` is `GPIO` of that bank, on the mock chip only
(R62). -/
def coupledLatch (p : Params) (a : RegAddr) : Option RegAddr :=
  match p.chip with
  | .plain => none
  | .coupled =>
    if a = addr p.regs .gpio .A then some (addr p.regs .olat .A)
    else if a = addr p.regs .gpio .B then some (addr p.regs .olat .B)
    else none

/-- A write transaction takes effect on the register space (R51, R62). -/
def State.busWrite (s : State) (dev : DevAddr) (a : RegAddr) (v : Byte) : State :=
  match coupledLatch s.params a with
  | none => s.setReg dev a v
  | some l => (s.setReg dev a v).setReg dev l v

/-- `tag[s]` (R23). -/
def State.tag (s : State) (k : Slot) : Tag := s.tags[k.toNat]'(k.isLt)

/-- `tag[s] <- v` (R23). -/
def State.setTag (s : State) (k : Slot) (t : Tag) : State :=
  { s with tags := s.tags.set k.toNat t k.isLt }

/-- A step that emits no response (R28). -/
def State.quiet (s : State) : State := { s with output := none }

/-- A step that emits the response `r` (R28, R80). -/
def State.respond (s : State) (r : Response) : State := { s with output := some r }

/-- The engine returns to `Idle`; `opreg`, `step` and `CUR` "become meaningless" (R103, R20): free values. -/
def State.toIdle (s : State) : State :=
  { s with phase := .idle, opreg := Config.freeOpreg s.fresh, stepNo := Config.freeStep s.fresh,
           cur := Latch.ofWord (Config.freeCur s.fresh), fresh := s.fresh + 1 }

/-- The last line of R101: the command is latched, `step` is 0, the phase is `Busy`, `CUR` is undefined (R113: a free
value), and the first transaction of the plan is presented. -/
def State.begin (s : State) (w : CmdWord) : State :=
  { s with phase := .busy, opreg := w, stepNo := 0, cur := Latch.ofWord (Config.freeCur s.fresh), fresh := s.fresh + 1,
           issued := s.issued + 1, output := none }

/-- Acceptance of a decoded command (R101, R164): `ILLEGAL` if it is not legal for the parameters, else `GATED` if the
gate does not permit it, else `Busy`. -/
def State.accept (s : State) (i : Instr) : State :=
  if i.wf s.params = false then s.respond illegalResponse
  else if permitted i.op (s.tag i.slot) = false then s.respond gatedResponse
  else s.begin (encode i)

/-- Where a byte that was read goes: `CUR[7:0]` for the first read of the plan, `CUR[15:8]` for the second (R25,
R104). The reads of every plan come first (R102), so the first read is transaction 0. -/
def latchByte (k : BitVec 2) (x : Byte) (cur : Latch) : Latch :=
  if k = 0 then { cur with lo := x } else { cur with hi := x }

/-- The outstanding transaction completes `Ok` (R50, R51, R56, R104): a read latches the byte the register holds now, a
write stores its byte; the mock bus logs it (R61). -/
def State.transact (s : State) (q : Request) : State :=
  match q with
  | .rd dev a =>
    { s with cur := latchByte s.stepNo (s.reg dev a) s.cur, log := s.log ++ [.rd dev a (s.reg dev a)] }
  | .wr dev a v =>
    { s.busWrite dev a v with log := s.log ++ [.wr dev a v] }

/-- What a failed transaction left behind: a failed write may have reached its register or not (R51, R204; log
entry 14), a failed read changes nothing; neither is logged (R61). -/
def State.failEffect (s : State) (q : Request) (landed : Bool) : State :=
  match q with
  | .rd _ _ => s
  | .wr dev a v => if landed then s.busWrite dev a v else s

/-- TAKING AN EXCEPTION: the outstanding transaction completed `Err(e)` (R103, R161, R166). The command ends with
`BUS_ERROR` and the transport's error value; no tag is written and nothing further is presented. -/
def State.raiseBusError (s : State) (e : TErr) : State :=
  s.toIdle.respond (busErrorResponse e)

/-- `step <- k + 1` and the next transaction is presented (R104). -/
def State.advance (s : State) : State :=
  { s with stepNo := s.stepNo + 1, issued := s.issued + 1, output := none }

/-- `commit` (R104): the configuration commands write the tag of their slot, the others write nothing. -/
def State.commit (s : State) (k : Slot) (c : Option Tag) : State :=
  match c with
  | none => s
  | some t => s.setTag k t

/-- The last transaction completed `Ok`: commit, respond `OK`, return to `Idle` (R104). -/
def State.finish (s : State) (k : Slot) (c : Option Tag) (result : Latch → Word) : State :=
  ((s.commit k c).toIdle).respond (okResponse (result s.cur))

/-- One completion step of the command being executed, whose plan for the present `CUR` is `plan` (R103, R104, R113).
With no answer of the transport the engine waits: there is no timeout (R112). -/
def completeStep (plan : List Request) (k : Slot) (c : Option Tag) (result : Latch → Word) (s : State) :
    Host.Outcome State Fault Refusal :=
  match plan[s.stepNo.toNat]? with
  | none => .fault .stepBeyondPlan
  | some q =>
    match s.busIn with
    | [] => .next s.quiet
    | .err e landed :: rest => .next ((({ s with busIn := rest }).failEffect q landed).raiseBusError e)
    | .ok :: rest =>
      if s.stepNo.toNat + 1 < plan.length then .next (({ s with busIn := rest }).transact q).advance
      else .next ((({ s with busIn := rest }).transact q).finish k c result)

/-- One engine step of the command `i`: acceptance while `Idle` (R100, R101); while `Busy`, the next completion step if
`i` is the command in `opreg`, and otherwise nothing, since the engine accepts no command then (R100; log
entry 18). -/
def runCommand (i : Instr) (plan : List Request) (c : Option Tag) (result : Latch → Word) (s : State) :
    Host.Outcome State Fault Refusal :=
  match s.phase with
  | .idle => .next (s.accept i)
  | .busy => if s.opreg = encode i then completeStep plan i.slot c result s else .next s.quiet

/-- The `Reset(dev)` step (R190): `DEV_ADDR` is sampled, every tag is `Unconfigured`, `Idle`, `step` 0; `opreg` and
`CUR` are unspecified (free values). No transaction (R191), and the register space is untouched (R192). -/
def State.resetEngine (s : State) (dev : DevAddr) : State :=
  { s with devAddr := dev, tags := Vector.replicate 16 .unconfigured, phase := .idle,
           opreg := Config.freeOpreg s.fresh, stepNo := 0, cur := Latch.ofWord (Config.freeCur s.fresh), fresh := s.fresh + 1,
           output := none }

/-- The transaction outstanding at the transport, a function of `opreg`, `step`, `CUR` and the parameters (R27). -/
def State.outstanding (s : State) : Option Request :=
  match s.phase with
  | .idle => none
  | .busy =>
    match decode s.params s.opreg with
    | .illegal _ => none
    | .cmd i => (planOf i s.params s.devAddr s.cur)[s.stepNo.toNat]?

end Sys2Proof.Machine
end

