-- ==== Sys2Proof/Machine/Configure.lean ====
section
/-! DEFINITION. The direction configuration commands `CFG_OUT` and `CFG_IN` (41_configure.md). -/

namespace Sys2Proof.Machine

/-- `CFG_OUT slot` (R115): masked update of `DIR` with `rep(~DIR_IN, W)`; `tag[s] <- Output` after the last
transaction completed `Ok`. -/
def execCfgOut (k : Slot) (s : State) : Host.Outcome State Fault Refusal :=
  runCommand (.cfgOut k) (planCfgOut s.params s.devAddr k s.cur) (some .output) noResult s

/-- `CFG_IN slot` (R116): masked update of `DIR` with `rep(DIR_IN, W)`; `tag[s] <- Input` after the last transaction
completed `Ok`. -/
def execCfgIn (k : Slot) (s : State) : Host.Outcome State Fault Refusal :=
  runCommand (.cfgIn k) (planCfgIn s.params s.devAddr k s.cur) (some .input) noResult s

end Sys2Proof.Machine
end

