-- ==== Sys2Proof/Machine/Input.lean ====
section
/-! DEFINITION. The commands of an input handle other than interrupt configuration, `READ` and `SET_PULL`
(43_input.md). -/

namespace Sys2Proof.Machine

/-- `READ slot` (R135): read `GPIO`; the response carries `extract(s, CUR)`. -/
def execRead (k : Slot) (s : State) : Host.Outcome State Fault Refusal :=
  runCommand (.read k) (planRead s.params s.devAddr k) none (extractResult s.params.mode k) s

/-- `SET_PULL slot, value` (R136): masked update of `PULL` with the operand. -/
def execSetPull (k : Slot) (val : Word) (s : State) : Host.Outcome State Fault Refusal :=
  runCommand (.setPull k val) (planSetPull s.params s.devAddr k val s.cur) none noResult s

end Sys2Proof.Machine
end

