-- ==== Sys2Proof/Machine/Interrupt.lean ====
section
/-! DEFINITION. The interrupt-configuration commands `INT_EN`, `INT_MODE` and `INT_DEF` (44_interrupt_config.md). -/

namespace Sys2Proof.Machine

/-- `INT_EN slot, value` (R145): masked update of `INTEN` with the operand. -/
def execIntEn (k : Slot) (val : Word) (s : State) : Host.Outcome State Fault Refusal :=
  runCommand (.intEn k val) (planIntEn s.params s.devAddr k val s.cur) none noResult s

/-- `INT_MODE slot, value` (R146): masked update of `INTCMP` with the operand. -/
def execIntMode (k : Slot) (val : Word) (s : State) : Host.Outcome State Fault Refusal :=
  runCommand (.intMode k val) (planIntMode s.params s.devAddr k val s.cur) none noResult s

/-- `INT_DEF slot, value` (R147): masked update of `INTDEF` with the operand. -/
def execIntDef (k : Slot) (val : Word) (s : State) : Host.Outcome State Fault Refusal :=
  runCommand (.intDef k val) (planIntDef s.params s.devAddr k val s.cur) none noResult s

end Sys2Proof.Machine
end

