-- ==== Sys2Proof/Machine/Output.lean ====
section
/-! DEFINITION. The commands of an output handle, `WRITE` and `RD_LATCH` (42_output.md). -/

namespace Sys2Proof.Machine

/-- `WRITE slot, value` (R125): in `Chip` mode a direct 16-bit write of `GPIO`, else a masked update of `GPIO`. -/
def execWrite (k : Slot) (val : Word) (s : State) : Host.Outcome State Fault Refusal :=
  runCommand (.write k val) (planWrite s.params s.devAddr k val s.cur) none noResult s

/-- `RD_LATCH slot` (R126): read `OLAT`; the response carries `extract(s, CUR)`. -/
def execRdLatch (k : Slot) (s : State) : Host.Outcome State Fault Refusal :=
  runCommand (.rdLatch k) (planRdLatch s.params s.devAddr k) none (extractResult s.params.mode k) s

end Sys2Proof.Machine
end

