-- ==== Sys2Proof/Machine/Dispatch.lean ====
section
/-! DEFINITION. One arm per command of the opcode table (R76). -/

namespace Sys2Proof.Machine

/-- One engine step of a command: acceptance while `Idle`, its next completion step while `Busy` (R100 to R104). -/
def exec (i : Instr) (s : State) : Host.Outcome State Fault Refusal :=
  match i with
  | .cfgOut k => Sys2Proof.Machine.execCfgOut k s
  | .cfgIn k => Sys2Proof.Machine.execCfgIn k s
  | .write k val => Sys2Proof.Machine.execWrite k val s
  | .read k => Sys2Proof.Machine.execRead k s
  | .rdLatch k => Sys2Proof.Machine.execRdLatch k s
  | .setPull k val => Sys2Proof.Machine.execSetPull k val s
  | .intEn k val => Sys2Proof.Machine.execIntEn k val s
  | .intMode k val => Sys2Proof.Machine.execIntMode k val s
  | .intDef k val => Sys2Proof.Machine.execIntDef k val s

end Sys2Proof.Machine
end

