-- ==== Sys2Proof/Machine/Agents.lean ====
section
/-! DEFINITION. The steps of the agents of R9: which agent moves next, and what its step does. -/

namespace Sys2Proof.Machine

/-- `Idle`: the host's next request (R101, R113). A word that does not decode is answered `ILLEGAL` (R163); a decoded
command runs; `Reset` resets the engine. With no request nothing happens. -/
def hostMove (s : State) : Host.Outcome State Fault Refusal :=
  match s.hostIn with
  | [] => .next s.quiet
  | .reset dev :: rest => .next (({ s with hostIn := rest }).resetEngine dev)
  | .issue w :: rest =>
    match decode s.params w with
    | .illegal _ => .next (({ s with hostIn := rest }).respond illegalResponse)
    | .cmd i => exec i { s with hostIn := rest }

/-- `Busy`: the command in `opreg` takes its next step, at the transport's completion (R103, R104, R112). The host's
requests wait (R100). -/
def transportMove (s : State) : Host.Outcome State Fault Refusal :=
  match decode s.params s.opreg with
  | .illegal _ => .fault .busyWithoutCommand
  | .cmd i => exec i s

/-- The engine's step: the host's turn while `Idle`, the transport's while `Busy`; the two are "never enabled in the
same state" (R165). -/
def engineMove (s : State) : Host.Outcome State Fault Refusal :=
  match s.phase with
  | .idle => hostMove s
  | .busy => transportMove s

/-- The environment's turn comes first (log entry 11): it writes one byte of the register space (R9, R58), or passes,
and then the engine moves. With no turn left the engine moves. -/
def agentsMove (s : State) : Host.Outcome State Fault Refusal :=
  match s.envIn with
  | [] => engineMove s
  | .pass :: rest => engineMove { s with envIn := rest }
  | .write dev a v :: rest => .next ((({ s with envIn := rest }).setReg dev a v).quiet)

/-- Put a command word where the engine takes its next command: first in the host's queue, the engine `Idle`, the
environment passing its turn. -/
def placeCommand (s : State) (w : CmdWord) : State :=
  { s with phase := .idle, hostIn := .issue w :: s.hostIn, envIn := .pass :: s.envIn }

/-- `k` steps of one command, stopping at the first fault or refusal. -/
def execTimes : Nat → Instr → State → Host.Outcome State Fault Refusal
  | 0, _, s => .next s
  | k + 1, i, s =>
    match exec i s with
    | .next t => execTimes k i t
    | .fault f => .fault f
    | .refused r => .refused r

end Sys2Proof.Machine
end

