-- ==== Sys2Proof/Machine/Step.lean ====
section
/-! DEFINITION. One step of the machine, and how a command word is placed before it. -/

namespace Sys2Proof.Machine

/-- One step of one agent (R5, R9, R113). -/
def step (s : State) : Host.Outcome State Fault Refusal := agentsMove s

/-- `s` with the command word `w` (bits above `nbits` zero) placed as the host's next request, so that the very next
step takes it (log entry 10). -/
def State.withFetchWord (s : State) (nbits w : Nat) : State :=
  placeCommand s (BitVec.ofNat 24 (w % 2 ^ nbits))

end Sys2Proof.Machine
end

