-- ==== Sys2Proof/Machine/Pseudo.lean ====
section
/-! DEFINITION. The assembler's slot names (R83) and its named operand values and pseudo-instructions (R84): each
stands for one command, and "none adds behaviour". -/

namespace Sys2Proof.Machine

/-- A slot as the assembler writes it (R83): `chip`; `A` or `B`; `A0`..`A7`, `B0`..`B7`. -/
inductive SlotName where
  | chip
  | port (b : Bank)
  | pin (b : Bank) (i : Fin 8)
deriving DecidableEq, Repr

/-- The `SEL` of a slot name: `8 * bank + bit` (R22, R83). -/
def selOf (n : SlotName) : Slot :=
  match n with
  | .chip     => 0
  | .port .A  => 0
  | .port .B  => 8
  | .pin .A i => BitVec.ofNat 4 i.val
  | .pin .B i => BitVec.ofNat 4 (8 + i.val)

/-- The mode a slot name belongs to (R83). -/
def modeOf (n : SlotName) : Mode :=
  match n with
  | .chip    => .chip
  | .port _  => .port
  | .pin _ _ => .pin

/-- The rows of R84 that stand for a command. -/
inductive PseudoInstr where
  | setPullHigh     (s : Slot)
  | setPullLow      (s : Slot)
  | intEnable       (s : Slot)
  | intDisable      (s : Slot)
  | intModeDefault  (s : Slot)
  | intModePrevious (s : Slot)
  | intDefHigh      (s : Slot)
  | intDefLow       (s : Slot)
  | writeHigh       (s : Slot)
  | writeLow        (s : Slot)
deriving DecidableEq, Repr

/-- The operand of `WRITE s, High` and `WRITE s, Low`: rows of R84 that exist in `Pin` mode only. -/
def writeLevel (m : Mode) (s : Slot) (v : Word) : Option Instr :=
  match m with
  | .pin          => some (.write s v)
  | .chip | .port => none

/-- The command a row of R84 stands for, none where the mode has no such row. -/
def expandPseudo (p : Params) (x : PseudoInstr) : Option Instr :=
  match x with
  | .setPullHigh s     => some (.setPull s (rep p.pullHigh p.mode.width))
  | .setPullLow s      => some (.setPull s (rep (!p.pullHigh) p.mode.width))
  | .intEnable s       => some (.intEn s (rep p.intenOn p.mode.width))
  | .intDisable s      => some (.intEn s (rep (!p.intenOn) p.mode.width))
  | .intModeDefault s  => some (.intMode s (rep p.intcmpDefault p.mode.width))
  | .intModePrevious s => some (.intMode s (rep (!p.intcmpDefault) p.mode.width))
  | .intDefHigh s      => some (.intDef s (rep true p.mode.width))
  | .intDefLow s       => some (.intDef s (rep false p.mode.width))
  | .writeHigh s       => writeLevel p.mode s 1
  | .writeLow s        => writeLevel p.mode s 0

/-- `NEW dev` is "not a command: reset with `dev_addr = dev`" (R84, R190). -/
def newHandle (dev : DevAddr) : HostReq := .reset dev

end Sys2Proof.Machine
end

