-- ==== Sys2Proof/Safety.lean ====
section
/-! DEFINITION. What every state a run can reach satisfies. -/

namespace Sys2Proof.Machine

/-- A slot that does not exist in the engine's mode (R22) is never configured (R23, R72). -/
def State.AbsentSlotsUnconfigured (s : State) : Prop :=
  ∀ k : Slot, s.params.mode.slotExists k = false → s.tag k = .unconfigured

/-- While `Busy`, `opreg` holds a command that decodes, that the gate permits (the tag "cannot change while the command
runs", R172), and `step` is inside its plan (R26, R102). -/
def State.busyCoherent (s : State) : Bool :=
  match s.phase with
  | .idle => true
  | .busy =>
    match decode s.params s.opreg with
    | .illegal _ => false
    | .cmd i => permitted i.op (s.tag i.slot) && decide (s.stepNo.toNat < planLength i.op s.params.mode)

/-- The invariant of a run: the register space is canonical, the register table meets R47, absent slots are
unconfigured, and a command in progress is coherent. -/
def State.Sound (s : State) : Prop :=
  s.mem.wf = true ∧ s.params.regs.valid = true ∧ s.AbsentSlotsUnconfigured ∧ s.busyCoherent = true

end Sys2Proof.Machine
end

