-- ==== Sys2Proof/Certificates/Slice0/Obligations.lean ====
section
/-! DEFINITION. The statements for the provers, from the numbered rules of spec/. -/

open Sys2Proof Sys2Proof.Machine

/-! ## Words the statements share -/

/-- What no command changes: the parameters, `DEV_ADDR`, and what the host and the environment still have to do. -/
def Sys2Proof.Claims.SameFrame (s t : State) : Prop :=
  t.params = s.params ∧ t.devAddr = s.devAddr ∧ t.hostIn = s.hostIn ∧ t.envIn = s.envIn

/-- The tags after a command on slot `k` that commits `c` (R104): only `tag[k]` may change (R23). -/
def Sys2Proof.Claims.TagsAfter (s t : State) (k : Slot) (c : Option Tag) : Prop :=
  ∀ k', t.tag k' = if k' = k then c.getD (s.tag k) else s.tag k'

/-- Every register but the listed ones, and those that the mock chip couples to them (R62), is as before. -/
def Sys2Proof.Claims.OthersKept (s t : State) (written : List RegAddr) : Prop :=
  ∀ d a, (d ≠ s.devAddr ∨ ∀ w ∈ written, a ≠ w ∧ coupledLatch s.params w ≠ some a) → t.reg d a = s.reg d a

/-- No environment write stands before the engine's move. -/
def Sys2Proof.Claims.EngineTurn (s : State) : Prop := ∀ d a v rest, s.envIn ≠ .write d a v :: rest

/-- A `Port` or `Pin` masked update (R102, R105 to R107) of kind `k` with operand `val`, from acceptance to response,
when the transport completes both transactions `Ok` and no other agent moves. -/
def Sys2Proof.Claims.MaskedByteRun (i : Instr) (need : Tag) (k : RegKind) (val : Params → Word) (c : Option Tag) :
    Prop :=
  ∀ (s : State) (rest : List Completion),
    s.mem.wf = true → s.phase = .idle → s.params.mode ≠ .chip → i.wf s.params = true → s.tag i.slot = need →
    s.busIn = .ok :: .ok :: rest →
    let a := addr s.params.regs k (slotBank i.slot)
    let old := s.reg s.devAddr a
    let mask := lowByte (scopeMask s.params.mode i.slot)
    let des := lowByte (scopePlace s.params.mode i.slot (val s.params))
    let new := (old &&& ~~~mask) ||| (des &&& mask)
    ∃ t₁ t₂ t₃, exec i s = .next t₁ ∧ exec i t₁ = .next t₂ ∧ exec i t₂ = .next t₃ ∧
      t₁.phase = .busy ∧ t₁.output = none ∧ t₁.outstanding = some (.rd s.devAddr a) ∧
      t₂.phase = .busy ∧ t₂.output = none ∧ t₂.outstanding = some (.wr s.devAddr a new) ∧
      t₃.phase = .idle ∧ t₃.output = some { status := .ok, rdata := 0, err := none } ∧
      Claims.TagsAfter s t₃ i.slot c ∧
      t₃.reg s.devAddr a = new ∧
      (∀ l, coupledLatch s.params a = some l → t₃.reg s.devAddr l = new) ∧
      Claims.OthersKept s t₃ [a] ∧
      t₃.log = s.log ++ [.rd s.devAddr a old, .wr s.devAddr a new] ∧ t₃.issued = s.issued + 2 ∧
      t₃.busIn = rest ∧ Claims.SameFrame s t₃

/-- A `Chip` masked update (R102, R107): `read16`, then `write16` of `NEW = val` (R106). -/
def Sys2Proof.Claims.MaskedWordRun (i : Instr) (need : Tag) (k : RegKind) (val : Params → Word) (c : Option Tag) :
    Prop :=
  ∀ (s : State) (rest : List Completion),
    s.mem.wf = true → s.params.regs.valid = true → s.phase = .idle → s.params.mode = .chip →
    i.wf s.params = true → s.tag i.slot = need →
    s.busIn = .ok :: .ok :: .ok :: .ok :: rest →
    let a := addr s.params.regs k .A
    let b := addr s.params.regs k .B
    let lo := lowByte (val s.params)
    let hi := highByte (val s.params)
    ∃ t₁ t₂ t₃ t₄ t₅, exec i s = .next t₁ ∧ exec i t₁ = .next t₂ ∧ exec i t₂ = .next t₃ ∧
      exec i t₃ = .next t₄ ∧ exec i t₄ = .next t₅ ∧
      t₁.outstanding = some (.rd s.devAddr a) ∧ t₂.outstanding = some (.rd s.devAddr b) ∧
      t₃.outstanding = some (.wr s.devAddr a lo) ∧ t₄.outstanding = some (.wr s.devAddr b hi) ∧
      t₅.phase = .idle ∧ t₅.output = some { status := .ok, rdata := 0, err := none } ∧
      Claims.TagsAfter s t₅ i.slot c ∧
      t₅.reg s.devAddr a = lo ∧ t₅.reg s.devAddr b = hi ∧ Claims.OthersKept s t₅ [a, b] ∧
      t₅.log = s.log ++ [.rd s.devAddr a (s.reg s.devAddr a), .rd s.devAddr b (s.reg s.devAddr b),
        .wr s.devAddr a lo, .wr s.devAddr b hi] ∧
      t₅.issued = s.issued + 4 ∧ t₅.busIn = rest ∧ Claims.SameFrame s t₅

/-- A `Port` or `Pin` read command of kind `k` (R102, R108): one transaction, no register written. -/
def Sys2Proof.Claims.ReadByteRun (i : Instr) (need : Tag) (k : RegKind) : Prop :=
  ∀ (s : State) (rest : List Completion),
    s.phase = .idle → s.params.mode ≠ .chip → i.wf s.params = true → s.tag i.slot = need →
    s.busIn = .ok :: rest →
    let a := addr s.params.regs k (slotBank i.slot)
    let x := s.reg s.devAddr a
    let result : Word := if s.params.mode = .port then x.setWidth 16 else if x.getLsbD (slotBit i.slot) then 1 else 0
    ∃ t₁ t₂, exec i s = .next t₁ ∧ exec i t₁ = .next t₂ ∧
      t₁.phase = .busy ∧ t₁.output = none ∧ t₁.outstanding = some (.rd s.devAddr a) ∧
      t₂.phase = .idle ∧ t₂.output = some { status := .ok, rdata := result, err := none } ∧
      t₂.tags = s.tags ∧ t₂.mem = s.mem ∧ t₂.log = s.log ++ [.rd s.devAddr a x] ∧ t₂.issued = s.issued + 1 ∧
      t₂.busIn = rest ∧ Claims.SameFrame s t₂

/-- A `Chip` read command of kind `k` (R52, R102, R108): two transactions, the word `{bank B byte, bank A byte}`. -/
def Sys2Proof.Claims.ReadWordRun (i : Instr) (need : Tag) (k : RegKind) : Prop :=
  ∀ (s : State) (rest : List Completion),
    s.phase = .idle → s.params.mode = .chip → i.wf s.params = true → s.tag i.slot = need →
    s.busIn = .ok :: .ok :: rest →
    let a := addr s.params.regs k .A
    let b := addr s.params.regs k .B
    let x := s.reg s.devAddr a
    let y := s.reg s.devAddr b
    ∃ t₁ t₂ t₃, exec i s = .next t₁ ∧ exec i t₁ = .next t₂ ∧ exec i t₂ = .next t₃ ∧
      t₁.outstanding = some (.rd s.devAddr a) ∧ t₂.outstanding = some (.rd s.devAddr b) ∧
      t₃.phase = .idle ∧ t₃.output = some { status := .ok, rdata := y ++ x, err := none } ∧
      t₃.tags = s.tags ∧ t₃.mem = s.mem ∧
      t₃.log = s.log ++ [.rd s.devAddr a x, .rd s.devAddr b y] ∧ t₃.issued = s.issued + 2 ∧
      t₃.busIn = rest ∧ Claims.SameFrame s t₃

/-- The commands whose `Port` or `Pin` plan is a masked update, with the kind and the operand of R107. -/
def Sys2Proof.Claims.maskedKind (i : Instr) (p : Params) : Option (RegKind × Word) :=
  match i with
  | .cfgOut _    => some (.dir, rep (!p.dirIn) p.mode.width)
  | .cfgIn _     => some (.dir, rep p.dirIn p.mode.width)
  | .write _ v   => some (.gpio, v)
  | .setPull _ v => some (.pull, v)
  | .intEn _ v   => some (.inten, v)
  | .intMode _ v => some (.intcmp, v)
  | .intDef _ v  => some (.intdef, v)
  | .read _      => none
  | .rdLatch _   => none

/-- The register address of a transaction. -/
def Sys2Proof.Claims.requestAddr (q : Request) : RegAddr :=
  match q with
  | .rd _ a => a
  | .wr _ a _ => a

/-- The device address of a transaction. -/
def Sys2Proof.Claims.requestDev (q : Request) : DevAddr :=
  match q with
  | .rd d _ => d
  | .wr d _ _ => d

/-! ## Encoding and decoding -/

/-- O1 (R70, R75, R76): decoding the encoding of a well-formed command gives it back, for every command, operand and
choice of the parameters. -/
def Obligations.EncodeThenDecode : Prop :=
  ∀ (p : Params) (i : Instr), i.wf p = true → decode p (encode i) = .cmd i

/-- O2 (R70, R75): a word that decodes is the encoding of what it decodes to, which is well-formed; no bit is
dropped. -/
def Obligations.DecodedWordIsItsEncoding : Prop :=
  ∀ (p : Params) (w : CmdWord) (i : Instr), decode p w = .cmd i → encode i = w ∧ i.wf p = true

/-- O3 (R77): the reserved opcodes, `0x5` among them when `LATCH_READBACK` is false; the all-zero word. -/
def Obligations.ReservedOpcodesIllegal : Prop :=
  ∀ p : Params,
    (∀ w : CmdWord, fieldOpc w ∈ [0x0, 0xA, 0xB, 0xC, 0xD, 0xE, 0xF] → ∃ why, decode p w = .illegal why) ∧
    (∀ w : CmdWord, p.latchReadback = false → fieldOpc w = 0x5 → ∃ why, decode p w = .illegal why) ∧
    (∃ why, decode p 0 = .illegal why)

/-- O4 (R72, R73, R77, R78): the complete list of illegal encodings, by opcode, slot and data, for each mode. -/
def Obligations.IllegalEncodingsExactly : Prop :=
  ∀ (p : Params) (w : CmdWord),
    (∃ why, decode p w = .illegal why) ↔
      (fieldOpc w ∈ [0x0, 0xA, 0xB, 0xC, 0xD, 0xE, 0xF] ∨ (fieldOpc w = 0x5 ∧ p.latchReadback = false)) ∨
      ((p.mode = .chip ∧ fieldSel w ≠ 0) ∨ (p.mode = .port ∧ fieldSel w ≠ 0 ∧ fieldSel w ≠ 8)) ∨
      ((fieldOpc w ∈ [0x3, 0x6, 0x7, 0x8, 0x9] ∧
          ((p.mode = .port ∧ (fieldData w).extractLsb' 8 8 ≠ 0) ∨
           (p.mode = .pin ∧ (fieldData w).extractLsb' 1 15 ≠ 0))) ∨
       (fieldOpc w ∈ [0x1, 0x2, 0x4, 0x5] ∧ fieldData w ≠ 0))

/-- O5 (95_test_vectors.md V1): words of the spec decode to the commands they stand for, and the others do not. -/
def Obligations.SpecWordsDecode : Prop :=
  decode (defaultParams .pin) 0x2B0000 = .cmd (.cfgIn 0xB) ∧
  decode (defaultParams .chip) 0x30BBAA = .cmd (.write 0 0xBBAA) ∧
  decode (defaultParams .pin) 0x4B0000 = .cmd (.read 0xB) ∧
  decode (defaultParams .port) 0x6000FF = .cmd (.setPull 0 0x00FF) ∧
  decode (defaultParams .port) 0x98000F = .cmd (.intDef 8 0x000F) ∧
  decode (defaultParams .chip) 0x180000 = .illegal .noSuchSlot ∧
  decode (defaultParams .port) 0x300100 = .illegal .badData ∧
  decode (defaultParams .pin) 0x100001 = .illegal .badData

/-- A row of R84 stands for one command: its operation, its slot, and its operand, which is `b` in every bit below the
handle width and 0 above; and on a slot of the mode that command's word decodes to it. -/
def Sys2Proof.Claims.PseudoRow (p : Params) (x : PseudoInstr) (o : Op) (s : Slot) (b : Bool) : Prop :=
  ∃ i, expandPseudo p x = some i ∧ i.op = o ∧ i.slot = s ∧
    (∀ j, i.data.getLsbD j = (decide (j < p.mode.width) && b)) ∧
    (p.mode.slotExists s = true → decode p (encode i) = .cmd i)

/-- O6 (R84): the rows of the table, each with its operation, slot and operand; `WRITE s, High` and `WRITE s, Low` are
rows in `Pin` mode only; `NEW dev` is Reset with `dev`. -/
def Obligations.PseudoInstructionsAreCommands : Prop :=
  (∀ (p : Params) (s : Slot),
    Claims.PseudoRow p (.setPullHigh s) .setPull s p.pullHigh ∧
    Claims.PseudoRow p (.setPullLow s) .setPull s (!p.pullHigh) ∧
    Claims.PseudoRow p (.intEnable s) .intEn s p.intenOn ∧
    Claims.PseudoRow p (.intDisable s) .intEn s (!p.intenOn) ∧
    Claims.PseudoRow p (.intModeDefault s) .intMode s p.intcmpDefault ∧
    Claims.PseudoRow p (.intModePrevious s) .intMode s (!p.intcmpDefault) ∧
    Claims.PseudoRow p (.intDefHigh s) .intDef s true ∧
    Claims.PseudoRow p (.intDefLow s) .intDef s false ∧
    (p.mode = .pin → Claims.PseudoRow p (.writeHigh s) .write s true ∧ Claims.PseudoRow p (.writeLow s) .write s false) ∧
    (p.mode ≠ .pin → expandPseudo p (.writeHigh s) = none ∧ expandPseudo p (.writeLow s) = none)) ∧
  (∀ dev : DevAddr, newHandle dev = .reset dev)

/-! ## The step -/

/-- O7 (R100, R101): when the host's next request is the word of a well-formed command and the engine is `Idle` with
its turn to move, the step is `exec` of that command, the request and the environment's pass taken. -/
def Obligations.StepRunsIssuedCommand : Prop :=
  ∀ (s : State) (i : Instr) (rest : List HostReq),
    Claims.EngineTurn s → s.phase = .idle → s.hostIn = .issue (encode i) :: rest → i.wf s.params = true →
    step s = exec i { s with envIn := s.envIn.tail, hostIn := rest }

/-- O8 (R26, R104): while `Busy` the step is `exec` of the command in `opreg`. -/
def Obligations.StepContinuesBusyCommand : Prop :=
  ∀ (s : State) (i : Instr),
    Claims.EngineTurn s → s.phase = .busy → s.opreg = encode i → i.wf s.params = true →
    step s = exec i { s with envIn := s.envIn.tail }

/-- O9 (R101): acceptance, on any word: `ILLEGAL` without a state change, `GATED` without a state change, or the
command latched, `step` 0, `Busy`, and the first transaction of the plan presented. -/
def Obligations.AcceptanceOfAnyWord : Prop :=
  ∀ (s : State) (w : CmdWord) (rest : List HostReq),
    Claims.EngineTurn s → s.phase = .idle → s.hostIn = .issue w :: rest →
    ∃ t, step s = .next t ∧
      match decode s.params w with
      | .illegal _ =>
        t = { s with hostIn := rest, envIn := s.envIn.tail,
                     output := some { status := .illegal, rdata := 0, err := none } }
      | .cmd i =>
        if s.tag i.slot ≠ requiredTag i.op then
          t = { s with hostIn := rest, envIn := s.envIn.tail,
                       output := some { status := .gated, rdata := 0, err := none } }
        else
          t.phase = .busy ∧ t.opreg = w ∧ t.stepNo = 0 ∧ t.output = none ∧ t.issued = s.issued + 1 ∧
          t.outstanding = (planOf i s.params s.devAddr t.cur)[0]? ∧ t.outstanding ≠ none ∧
          t.tags = s.tags ∧ t.mem = s.mem ∧ t.log = s.log ∧ t.busIn = s.busIn ∧ t.hostIn = rest

/-- O10 (R163): a word that does not decode is answered `ILLEGAL`; nothing else changes but the request taken. -/
def Obligations.IllegalWordAnswered : Prop :=
  ∀ (s : State) (w : CmdWord) (why : Illegal) (rest : List HostReq),
    Claims.EngineTurn s → s.phase = .idle → s.hostIn = .issue w :: rest → decode s.params w = .illegal why →
    step s = .next { s with hostIn := rest, envIn := s.envIn.tail,
                            output := some { status := .illegal, rdata := 0, err := none } }

/-- O11 (R162): a decoded command that the gate does not permit is answered `GATED`; nothing else changes. -/
def Obligations.GatedCommandAnswered : Prop :=
  ∀ (s : State) (i : Instr),
    s.phase = .idle → i.wf s.params = true → permitted i.op (s.tag i.slot) = false →
    exec i s = .next { s with output := some { status := .gated, rdata := 0, err := none } }

/-- O12 (R170): the gate's table, all twenty-seven entries; and "no" means that the command ends `GATED`. -/
def Obligations.GateTable : Prop :=
  (∀ t, permitted .cfgOut t = true ↔ t = .unconfigured) ∧ (∀ t, permitted .cfgIn t = true ↔ t = .unconfigured) ∧
  (∀ t, permitted .write t = true ↔ t = .output) ∧ (∀ t, permitted .rdLatch t = true ↔ t = .output) ∧
  (∀ t, permitted .read t = true ↔ t = .input) ∧ (∀ t, permitted .setPull t = true ↔ t = .input) ∧
  (∀ t, permitted .intEn t = true ↔ t = .input) ∧ (∀ t, permitted .intMode t = true ↔ t = .input) ∧
  (∀ t, permitted .intDef t = true ↔ t = .input) ∧
  (∀ (s : State) (i : Instr), s.phase = .idle → i.wf s.params = true →
    (permitted i.op (s.tag i.slot) = false ↔
      exec i s = .next { s with output := some { status := .gated, rdata := 0, err := none } }))

/-- O13 (R164): `ILLEGAL` before `GATED`: an ill-formed command is `ILLEGAL` whatever the tag of its slot. -/
def Obligations.IllegalBeforeGated : Prop :=
  ∀ (s : State) (i : Instr), s.phase = .idle → i.wf s.params = false →
    exec i s = .next { s with output := some { status := .illegal, rdata := 0, err := none } }

/-! ## Whole commands, from acceptance to response -/

/-- O14 (R115, R116): `CFG_OUT` and `CFG_IN` on a `Port` or `Pin` handle. -/
def Obligations.ConfigureByteRun : Prop :=
  ∀ k : Slot,
    Claims.MaskedByteRun (.cfgOut k) .unconfigured .dir (fun p => rep (!p.dirIn) p.mode.width) (some .output) ∧
    Claims.MaskedByteRun (.cfgIn k) .unconfigured .dir (fun p => rep p.dirIn p.mode.width) (some .input)

/-- O15 (R115, R116): `CFG_OUT` and `CFG_IN` on the `Chip` handle. -/
def Obligations.ConfigureWordRun : Prop :=
  ∀ k : Slot,
    Claims.MaskedWordRun (.cfgOut k) .unconfigured .dir (fun p => rep (!p.dirIn) 16) (some .output) ∧
    Claims.MaskedWordRun (.cfgIn k) .unconfigured .dir (fun p => rep p.dirIn 16) (some .input)

/-- O16 (R125): `WRITE` on a `Port` or `Pin` handle: a masked update of `GPIO`. -/
def Obligations.WriteByteRun : Prop :=
  ∀ (k : Slot) (v : Word), Claims.MaskedByteRun (.write k v) .output .gpio (fun _ => v) none

/-- O17 (R125, R53): `WRITE` on the `Chip` handle: two writes, low byte to bank A first, and no read. -/
def Obligations.WriteWordRun : Prop :=
  ∀ (k : Slot) (v : Word) (s : State) (rest : List Completion),
    s.mem.wf = true → s.params.regs.valid = true → s.phase = .idle → s.params.mode = .chip →
    (Instr.write k v).wf s.params = true → s.tag k = .output → s.busIn = .ok :: .ok :: rest →
    let a := addr s.params.regs .gpio .A
    let b := addr s.params.regs .gpio .B
    ∃ t₁ t₂ t₃, exec (.write k v) s = .next t₁ ∧ exec (.write k v) t₁ = .next t₂ ∧ exec (.write k v) t₂ = .next t₃ ∧
      t₁.outstanding = some (.wr s.devAddr a (v.extractLsb' 0 8)) ∧
      t₂.outstanding = some (.wr s.devAddr b (v.extractLsb' 8 8)) ∧
      t₃.phase = .idle ∧ t₃.output = some { status := .ok, rdata := 0, err := none } ∧ t₃.tags = s.tags ∧
      t₃.reg s.devAddr a = v.extractLsb' 0 8 ∧ t₃.reg s.devAddr b = v.extractLsb' 8 8 ∧
      (∀ l, coupledLatch s.params a = some l → t₃.reg s.devAddr l = v.extractLsb' 0 8) ∧
      (∀ l, coupledLatch s.params b = some l → t₃.reg s.devAddr l = v.extractLsb' 8 8) ∧
      Claims.OthersKept s t₃ [a, b] ∧
      t₃.log = s.log ++ [.wr s.devAddr a (v.extractLsb' 0 8), .wr s.devAddr b (v.extractLsb' 8 8)] ∧
      t₃.issued = s.issued + 2 ∧ t₃.busIn = rest ∧ Claims.SameFrame s t₃

/-- O18 (R126, R135): `READ` and `RD_LATCH` on a `Port` or `Pin` handle. -/
def Obligations.ReadCommandsByteRun : Prop :=
  ∀ k : Slot, Claims.ReadByteRun (.read k) .input .gpio ∧ Claims.ReadByteRun (.rdLatch k) .output .olat

/-- O19 (R126, R135): `READ` and `RD_LATCH` on the `Chip` handle. -/
def Obligations.ReadCommandsWordRun : Prop :=
  ∀ k : Slot, Claims.ReadWordRun (.read k) .input .gpio ∧ Claims.ReadWordRun (.rdLatch k) .output .olat

/-- O20 (R136): `SET_PULL` on a `Port` or `Pin` handle. -/
def Obligations.SetPullByteRun : Prop :=
  ∀ (k : Slot) (v : Word), Claims.MaskedByteRun (.setPull k v) .input .pull (fun _ => v) none

/-- O21 (R136): `SET_PULL` on the `Chip` handle. -/
def Obligations.SetPullWordRun : Prop :=
  ∀ (k : Slot) (v : Word), Claims.MaskedWordRun (.setPull k v) .input .pull (fun _ => v) none

/-- O22 (R145, R146, R147): `INT_EN`, `INT_MODE` and `INT_DEF` on a `Port` or `Pin` handle, each on its own kind
(R148). -/
def Obligations.InterruptByteRun : Prop :=
  ∀ (k : Slot) (v : Word),
    Claims.MaskedByteRun (.intEn k v) .input .inten (fun _ => v) none ∧
    Claims.MaskedByteRun (.intMode k v) .input .intcmp (fun _ => v) none ∧
    Claims.MaskedByteRun (.intDef k v) .input .intdef (fun _ => v) none

/-- O23 (R145, R146, R147): `INT_EN`, `INT_MODE` and `INT_DEF` on the `Chip` handle. -/
def Obligations.InterruptWordRun : Prop :=
  ∀ (k : Slot) (v : Word),
    Claims.MaskedWordRun (.intEn k v) .input .inten (fun _ => v) none ∧
    Claims.MaskedWordRun (.intMode k v) .input .intcmp (fun _ => v) none ∧
    Claims.MaskedWordRun (.intDef k v) .input .intdef (fun _ => v) none

/-! ## One transaction -/

/-- O24 (R104): the outstanding transaction completes `Ok`: a read latches its byte into the half of `CUR` that is its
turn; if the plan goes on, `step` advances and the next transaction is presented from the updated `CUR`; else the
command commits, responds `OK` with its result, and the engine is `Idle`. -/
def Obligations.TransactionSucceeds : Prop :=
  ∀ (s : State) (i : Instr) (q : Request) (rest : List Completion),
    s.phase = .busy → s.opreg = encode i → i.wf s.params = true → s.outstanding = some q →
    s.busIn = .ok :: rest →
    let cur : Latch := match q with
      | .rd d a => if s.stepNo = 0 then { lo := s.reg d a, hi := s.cur.hi } else { lo := s.cur.lo, hi := s.reg d a }
      | .wr _ _ _ => s.cur
    ∃ t, exec i s = .next t ∧ t.busIn = rest ∧ Claims.SameFrame s t ∧
      if s.stepNo.toNat + 1 < planLength i.op s.params.mode then
        t.phase = .busy ∧ t.opreg = s.opreg ∧ t.stepNo.toNat = s.stepNo.toNat + 1 ∧ t.cur = cur ∧ t.output = none ∧
        t.outstanding = (planOf i s.params s.devAddr cur)[s.stepNo.toNat + 1]? ∧ t.outstanding ≠ none ∧
        t.issued = s.issued + 1 ∧ t.tags = s.tags
      else
        t.phase = .idle ∧ t.issued = s.issued ∧
        (∀ k, t.tag k = match i with
          | .cfgOut k' => if k = k' then .output else s.tag k
          | .cfgIn k' => if k = k' then .input else s.tag k
          | .write _ _ | .read _ | .rdLatch _ | .setPull _ _ | .intEn _ _ | .intMode _ _ | .intDef _ _ => s.tag k) ∧
        t.output = some { status := .ok, err := none, rdata := match i with
          | .read k => extractResult s.params.mode k cur
          | .rdLatch k => extractResult s.params.mode k cur
          | .cfgOut _ | .cfgIn _ | .write _ _ | .setPull _ _ | .intEn _ _ | .intMode _ _ | .intDef _ _ => 0 }

/-- O25 (R51, R103, R161, R204; log entry 14): the outstanding transaction completes `Err(e)`: the command ends with
`BUS_ERROR` and `e`, the engine is `Idle`, no further transaction is presented and no tag is written; what earlier
transactions did stands. That a failed write either landed or not, and that one which landed on the mock chip sets the
coupled latch too, is the model's choice of log entry 14. -/
def Obligations.TransactionFails : Prop :=
  ∀ (s : State) (i : Instr) (q : Request) (e : TErr) (landed : Bool) (rest : List Completion),
    s.phase = .busy → s.opreg = encode i → i.wf s.params = true → s.outstanding = some q →
    s.busIn = .err e landed :: rest →
    ∃ t, exec i s = .next t ∧ t.phase = .idle ∧
      t.output = some { status := .busError, rdata := 0, err := some e } ∧
      t.issued = s.issued ∧ t.tags = s.tags ∧ t.log = s.log ∧ t.busIn = rest ∧ Claims.SameFrame s t ∧
      (t.mem = s.mem ∨ ∃ d a v, q = .wr d a v ∧ t.mem = (s.busWrite d a v).mem)

/-- O26 (R51, R204): after a failed write its register holds the old byte or the new one, and both happen: which one is
the transport's answer (log entry 14, the model's choice); no other register changes but the mock chip's coupled
latch. -/
def Obligations.FailedWriteIsOldOrNew : Prop :=
  ∀ (s : State) (i : Instr) (d : DevAddr) (a : RegAddr) (v : Byte) (e : TErr) (landed : Bool)
    (rest : List Completion),
    s.mem.wf = true → s.phase = .busy → s.opreg = encode i → i.wf s.params = true →
    s.outstanding = some (.wr d a v) → s.busIn = .err e landed :: rest →
    ∃ t, exec i s = .next t ∧ t.reg d a = (if landed then v else s.reg d a) ∧
      ∀ d' a', (d' ≠ d ∨ (a' ≠ a ∧ coupledLatch s.params a ≠ some a')) → t.reg d' a' = s.reg d' a'

/-- O27 (R110): a failed read leaves every register unchanged. -/
def Obligations.FailedReadChangesNoRegister : Prop :=
  ∀ (s : State) (i : Instr) (d : DevAddr) (a : RegAddr) (e : TErr) (landed : Bool) (rest : List Completion),
    s.phase = .busy → s.opreg = encode i → i.wf s.params = true →
    s.outstanding = some (.rd d a) → s.busIn = .err e landed :: rest →
    ∃ t, exec i s = .next t ∧ t.phase = .idle ∧ t.mem = s.mem

/-- O28 (R117): a configuration command that fails leaves its slot `Unconfigured`, and the same command is accepted
again. -/
def Obligations.FailedConfigurationCanBeReissued : Prop :=
  ∀ (s : State) (k : Slot) (i : Instr) (q : Request) (e : TErr) (landed : Bool) (rest : List Completion),
    (i = .cfgOut k ∨ i = .cfgIn k) → s.phase = .busy → s.opreg = encode i → i.wf s.params = true →
    s.tag k = .unconfigured → s.outstanding = some q → s.busIn = .err e landed :: rest →
    ∃ t t', exec i s = .next t ∧ t.output = some { status := .busError, rdata := 0, err := some e } ∧
      t.tag k = .unconfigured ∧
      exec i t = .next t' ∧ t'.phase = .busy ∧ t'.opreg = encode i ∧ t'.stepNo = 0

/-- O29 (R53, R110, R201; log entry 14 for the failed write): `Chip` mode, the second write of `WRITE` fails: bank A
holds the new low byte, bank B the old byte or the new one, and the response is `BUS_ERROR`. -/
def Obligations.ChipWriteCanTear : Prop :=
  ∀ (s : State) (k : Slot) (v : Word) (e : TErr) (landed : Bool) (rest : List Completion),
    s.mem.wf = true → s.params.regs.valid = true → s.phase = .idle → s.params.mode = .chip →
    (Instr.write k v).wf s.params = true → s.tag k = .output → s.busIn = .ok :: .err e landed :: rest →
    let a := addr s.params.regs .gpio .A
    let b := addr s.params.regs .gpio .B
    ∃ t₁ t₂ t₃, exec (.write k v) s = .next t₁ ∧ exec (.write k v) t₁ = .next t₂ ∧ exec (.write k v) t₂ = .next t₃ ∧
      t₃.phase = .idle ∧ t₃.output = some { status := .busError, rdata := 0, err := some e } ∧
      t₃.reg s.devAddr a = lowByte v ∧
      t₃.reg s.devAddr b = (if landed then highByte v else s.reg s.devAddr b)

/-! ## Races with the environment -/

/-- O30 (R109, R200): lost update. Another agent writes `y` to the register between the read and the write of a
`Port` or `Pin` masked update: the engine still writes the bits it read, so `y` is lost outside the mask too. -/
def Obligations.LostUpdate : Prop :=
  ∀ (s : State) (i : Instr) (k : RegKind) (val : Word) (y : Byte) (rest : List Completion),
    s.mem.wf = true → s.phase = .busy → s.params.mode ≠ .chip → s.opreg = encode i → i.wf s.params = true →
    s.stepNo = 0 → Claims.maskedKind i s.params = some (k, val) → s.busIn = .ok :: .ok :: rest →
    let a := addr s.params.regs k (slotBank i.slot)
    let mask := lowByte (scopeMask s.params.mode i.slot)
    let des := lowByte (scopePlace s.params.mode i.slot val)
    ∃ t₁ t₂, exec i s = .next t₁ ∧ exec i (t₁.setReg s.devAddr a y) = .next t₂ ∧
      t₂.output = some { status := .ok, rdata := 0, err := none } ∧
      t₂.reg s.devAddr a = (s.reg s.devAddr a &&& ~~~mask) ||| (des &&& mask)

/-- O31 (R201): a torn read. Another agent changes both registers between the two reads of a `Chip` read: the word is
the old low byte with the new high byte. -/
def Obligations.ChipReadCanTear : Prop :=
  ∀ (s : State) (k : Slot) (x y : Byte) (rest : List Completion),
    s.mem.wf = true → s.phase = .busy → s.params.mode = .chip → s.opreg = encode (.read k) →
    (Instr.read k).wf s.params = true → s.stepNo = 0 → s.busIn = .ok :: .ok :: rest →
    let a := addr s.params.regs .gpio .A
    let b := addr s.params.regs .gpio .B
    ∃ t₁ t₂, exec (.read k) s = .next t₁ ∧
      exec (.read k) ((t₁.setReg s.devAddr a x).setReg s.devAddr b y) = .next t₂ ∧
      t₂.output = some { status := .ok, rdata := y ++ s.reg s.devAddr a, err := none }

/-- O32 (R128): the round trip on the mock chip: `WRITE` ending `OK`, then `RD_LATCH` ending `OK`, returns the value
written, on a `Port` or `Pin` handle (the first clause) and on the `Chip` handle (the second). -/
def Obligations.LatchReadsBackWrite : Prop :=
  (∀ (s : State) (k : Slot) (v : Word) (rest : List Completion),
    s.mem.wf = true → s.params.regs.valid = true → s.params.chip = .coupled → s.params.mode ≠ .chip →
    s.phase = .idle → (Instr.write k v).wf s.params = true → (Instr.rdLatch k).wf s.params = true →
    s.tag k = .output → s.busIn = .ok :: .ok :: .ok :: rest →
    ∃ t u, execTimes 3 (.write k v) s = .next t ∧ execTimes 2 (.rdLatch k) t = .next u ∧
      t.output = some { status := .ok, rdata := 0, err := none } ∧
      u.output = some { status := .ok, rdata := v, err := none }) ∧
  (∀ (s : State) (k : Slot) (v : Word) (rest : List Completion),
    s.mem.wf = true → s.params.regs.valid = true → s.params.chip = .coupled → s.params.mode = .chip →
    s.phase = .idle → (Instr.write k v).wf s.params = true → (Instr.rdLatch k).wf s.params = true →
    s.tag k = .output → s.busIn = .ok :: .ok :: .ok :: .ok :: rest →
    ∃ t u, execTimes 3 (.write k v) s = .next t ∧ execTimes 3 (.rdLatch k) t = .next u ∧
      t.output = some { status := .ok, rdata := 0, err := none } ∧
      u.output = some { status := .ok, rdata := v, err := none })

/-! ## Waiting, reset -/

/-- O33 (R100): while `Busy` nothing is accepted: every request of the host waits in its queue (log entry 11), and
`exec` of a command other than the one in `opreg` only waits (log entry 18, the model's choice). -/
def Obligations.BusyAcceptsNothing : Prop :=
  (∀ s t : State, s.phase = .busy → step s = .next t → t.hostIn = s.hostIn) ∧
  (∀ (s : State) (i : Instr), s.phase = .busy → s.opreg ≠ encode i →
    exec i s = .next { s with output := none })

/-- O34 (R112): an unanswered transaction hangs the engine: however many steps are taken, it stays `Busy` and nothing
changes; and only a completion ends the wait. That no answer is to come is the empty `busIn` (log entry 11, the model's
choice). -/
def Obligations.UnansweredTransactionHangs : Prop :=
  (∀ (s : State) (n : Nat), s.Sound → s.phase = .busy → s.busIn = [] → s.envIn = [] →
    core.run (n + 1) s = .next { s with output := none }) ∧
  (∀ s t : State, s.phase = .busy → step s = .next t → t.phase = .idle → s.busIn ≠ [])

/-- O35 (R190, R191, R192): the Reset step: `DEV_ADDR` from its input, every tag `Unconfigured`, `Idle`, `step` 0, no
response; no transaction; the register space untouched. -/
def Obligations.ResetStep : Prop :=
  ∀ (s : State) (dev : DevAddr) (rest : List HostReq),
    Claims.EngineTurn s → s.phase = .idle → s.hostIn = .reset dev :: rest →
    ∃ t, step s = .next t ∧ t.devAddr = dev ∧ (∀ k, t.tag k = .unconfigured) ∧ t.phase = .idle ∧ t.stepNo = 0 ∧
      t.output = none ∧ t.issued = s.issued ∧ t.log = s.log ∧ t.busIn = s.busIn ∧ t.mem = s.mem ∧
      t.params = s.params ∧ t.hostIn = rest

/-- O36 (R20, R190): the state after reset, for the values the spec gives. -/
def Obligations.ResetValues : Prop :=
  (∀ k, State.reset.tag k = .unconfigured) ∧ State.reset.phase = .idle ∧ State.reset.stepNo = 0 ∧
  State.reset.issued = 0 ∧ State.reset.log = []

/-! ## Invariants and whole-machine rules -/

/-- O37 (R20, R22, R23, R47, R102, R172): every step keeps the invariant of a run; that the tags of absent slots are
held at all, `Unconfigured`, is the model's choice (log entry 15). -/
def Obligations.EveryStepKeepsSound : Prop :=
  ∀ s t : State, s.Sound → step s = .next t → t.Sound

/-- O38 (R47, R190): the state after reset satisfies the invariant. -/
def Obligations.ResetIsSound : Prop := State.reset.Sound

/-- O39: no sound state stops: every step, and every command in every phase, answers a next state. Where R113 has a
step this is its successor; that a step with no input on offer, and `exec` of a command other than the one in `opreg`
while `Busy`, answer a next state too is the model's choice of log entries 11 and 18. -/
def Obligations.SoundStatesNeverStop : Prop :=
  ∀ s : State, s.Sound → (∃ t, step s = .next t) ∧ ∀ i : Instr, ∃ t, exec i s = .next t

/-- O40 (R23, R118, R171): tags are one-way. Whatever the step, a tag keeps its value, or Reset made it `Unconfigured`,
or it was `Unconfigured` and the step is the `OK` ending of `CFG_OUT` (making it `Output`) or of `CFG_IN` (making it
`Input`) on that very slot. -/
def Obligations.TagsAreOneWay : Prop :=
  ∀ (s t : State) (k : Slot), s.Sound → step s = .next t →
    t.tag k = s.tag k ∨
    (s.phase = .idle ∧ (∃ dev rest, s.hostIn = .reset dev :: rest) ∧ t.tag k = .unconfigured) ∨
    (s.tag k = .unconfigured ∧ s.phase = .busy ∧ t.phase = .idle ∧
      t.output = some { status := .ok, rdata := 0, err := none } ∧
      ((s.opreg = encode (.cfgOut k) ∧ t.tag k = .output) ∨ (s.opreg = encode (.cfgIn k) ∧ t.tag k = .input)))

/-- O41 (R7, R21): every transaction carries `DEV_ADDR`; no command writes it, and only Reset changes it. -/
def Obligations.DeviceAddressNeverMutated : Prop :=
  (∀ (s : State) (q : Request), s.outstanding = some q → Claims.requestDev q = s.devAddr) ∧
  (∀ (s t : State) (i : Instr), exec i s = .next t → t.devAddr = s.devAddr) ∧
  (∀ s t : State, step s = .next t → t.devAddr = s.devAddr ∨
    (s.phase = .idle ∧ ∃ dev rest, s.hostIn = .reset dev :: rest ∧ t.devAddr = dev))

/-- O42 (R6): the parameters are immutable (log entry 1: the model carries them in its state). -/
def Obligations.ParametersNeverChange : Prop :=
  ∀ s t : State, step s = .next t → t.params = s.params

/-- O43 (R40, R57, R58; log entries 11 and 14): the register space changes only in two ways: the environment writes
the register in its turn, or the outstanding write transaction reaches it (as the register it names, or as the latch
the mock chip couples). -/
def Obligations.RegistersChangeOnlyByWrites : Prop :=
  ∀ (s t : State) (d : DevAddr) (a : RegAddr), s.mem.wf = true → step s = .next t →
    t.reg d a = s.reg d a ∨
    (∃ v rest, s.envIn = .write d a v :: rest ∧ t.reg d a = v) ∨
    (∃ a' v, s.phase = .busy ∧ s.outstanding = some (.wr d a' v) ∧
      (a = a' ∨ coupledLatch s.params a' = some a) ∧ t.reg d a = v)

/-- O44 (R27, R57, R61; log entry 16): the log grows only by the outstanding transaction, when it completes `Ok`, a
read with the byte its register holds then. -/
def Obligations.LogRecordsCompletedTransactions : Prop :=
  ∀ s t : State, step s = .next t →
    t.log = s.log ∨
    (∃ d a rest, s.outstanding = some (.rd d a) ∧ s.busIn = .ok :: rest ∧ t.log = s.log ++ [.rd d a (s.reg d a)]) ∨
    (∃ d a v rest, s.outstanding = some (.wr d a v) ∧ s.busIn = .ok :: rest ∧ t.log = s.log ++ [.wr d a v])

/-- O45 (R44): no transaction reaches an input-polarity, interrupt-flag or interrupt-capture register. -/
def Obligations.UnusedKindsNeverAccessed : Prop :=
  ∀ (s : State) (q : Request) (b : Bank), s.params.regs.valid = true → s.outstanding = some q →
    Claims.requestAddr q ≠ addr s.params.regs .ipol b ∧ Claims.requestAddr q ≠ addr s.params.regs .intf b ∧
    Claims.requestAddr q ≠ addr s.params.regs .intcap b

/-- O46 (R105): a `Port` or `Pin` command touches registers of its slot's bank only. -/
def Obligations.HandleStaysInItsBank : Prop :=
  ∀ (s : State) (q : Request), s.params.mode ≠ .chip → s.outstanding = some q →
    ∃ k : RegKind, Claims.requestAddr q = addr s.params.regs k (slotBank (fieldSel s.opreg))

/-- O47 (R28, R80, R82, R195; log entry 7 for the absent error value): a step that emits a response ends `Idle`; the
data is zero unless the status is `OK`, and the error value is there exactly with `BUS_ERROR`. -/
def Obligations.ResponseShape : Prop :=
  ∀ (s t : State) (r : Response), step s = .next t → t.output = some r →
    t.phase = .idle ∧ (r.status ≠ .ok → r.rdata = 0) ∧ (r.err.isSome = true ↔ r.status = .busError)

/-! ## The data path -/

/-- O48 (R106): the formula at full width, its low byte for `Port` and `Pin`, and what it gives in each mode: `Chip`
and `Port` the operand, whatever `CUR` is; `Pin` the byte read with the slot's bit replaced and the seven others
copied. -/
def Obligations.MaskedUpdateByMode : Prop :=
  ∀ (s : Slot) (v : Word) (c : Latch),
    (∀ m, newWord m s v c = (c.word &&& ~~~scopeMask m s) ||| (scopePlace m s v &&& scopeMask m s)) ∧
    (∀ m, newByte m s v c.lo = lowByte (newWord m s v c)) ∧
    newWord .chip s v c = v ∧ newByte .port s v c.lo = lowByte v ∧
    ∀ j, j < 8 → (newByte .pin s v c.lo).getLsbD j = if j = slotBit s then v.getLsbD 0 else c.lo.getLsbD j

/-- O49 (R111): the same masked update twice gives what it gives once. -/
def Obligations.MaskedUpdateIdempotent : Prop :=
  ∀ (m : Mode) (s : Slot) (v : Word),
    (∀ c : Byte, newByte m s v (newByte m s v c) = newByte m s v c) ∧
    (∀ c : Latch, newWord m s v (Latch.ofWord (newWord m s v c)) = newWord m s v c)

/-- O50 (R82, R108): the result of a read, bit by bit: `Chip` all sixteen, `Port` the low eight, `Pin` bit 0 is the
slot's bit of the byte; every other bit is zero. -/
def Obligations.ReadResultBits : Prop :=
  ∀ (s : Slot) (c : Latch) (j : Nat),
    (extractResult .chip s c).getLsbD j = (if j < 8 then c.lo.getLsbD j else c.hi.getLsbD (j - 8)) ∧
    (extractResult .port s c).getLsbD j = c.lo.getLsbD j ∧
    (extractResult .pin s c).getLsbD j = (decide (j = 0) && c.lo.getLsbD (slotBit s))

/-- O51 (R45): split and join: which byte is which bank's, and that each undoes the other. -/
def Obligations.SplitJoinInverse : Prop :=
  (∀ v : Word, lowByte v = v.extractLsb' 0 8 ∧ highByte v = v.extractLsb' 8 8) ∧
  (∀ v : Word, joinBytes (lowByte v) (highByte v) = v) ∧
  (∀ lo hi : Byte, lowByte (joinBytes lo hi) = lo ∧ highByte (joinBytes lo hi) = hi)

/-- O52 (R46, R47): every valid register table is injective, has bank B directly after bank A, and does not wrap; the
default table is valid. -/
def Obligations.RegisterDecoderInjective : Prop :=
  (∀ t : RegTable, t.valid = true →
    (∀ k, addr t k .B = addr t k .A + 1 ∧ addr t k .A ≠ 0xFF) ∧
    ∀ k b k' b', addr t k b = addr t k' b' → k = k' ∧ b = b') ∧
  defaultRegs.valid = true

/-! ## The transition table of R113 -/

/-- `Idle`, or `Busy` with the command, the index of the outstanding transaction and `CUR`: the folding R20 allows. -/
inductive Sys2Proof.Claims.EnginePhase where
  | idle
  | busy (cmd : Instr) (step : Nat) (cur : Latch)

/-- The state of R113's table. -/
structure Sys2Proof.Claims.Engine where
  devAddr : DevAddr
  tag     : Slot → Tag
  phase   : Claims.EnginePhase

/-- The steps of R113's table; a completion of a read carries its byte. -/
inductive Sys2Proof.Claims.Label where
  | reset (dev : DevAddr)
  | issue (w : CmdWord)
  | completeErr (e : TErr)
  | completeRead (x : Byte)
  | completeWrite

/-- R113's table, row by row: from, step, to, response. -/
inductive Sys2Proof.Claims.Row (p : Params) :
    Claims.Engine → Claims.Label → Claims.Engine → Option Response → Prop where
  | reset (e : Claims.Engine) (dev : DevAddr) : e.phase = .idle →
      Claims.Row p e (.reset dev) { devAddr := dev, tag := fun _ => .unconfigured, phase := .idle } none
  | illegal (e : Claims.Engine) (w : CmdWord) (why : Illegal) : e.phase = .idle → decode p w = .illegal why →
      Claims.Row p e (.issue w) e (some { status := .illegal, rdata := 0, err := none })
  | gated (e : Claims.Engine) (w : CmdWord) (i : Instr) : e.phase = .idle → decode p w = .cmd i →
      permitted i.op (e.tag i.slot) = false →
      Claims.Row p e (.issue w) e (some { status := .gated, rdata := 0, err := none })
  | start (e : Claims.Engine) (w : CmdWord) (i : Instr) (cur : Latch) : e.phase = .idle → decode p w = .cmd i →
      permitted i.op (e.tag i.slot) = true →
      Claims.Row p e (.issue w) { e with phase := .busy i 0 cur } none
  | fail (e : Claims.Engine) (i : Instr) (k : Nat) (cur : Latch) (err : TErr) : e.phase = .busy i k cur →
      Claims.Row p e (.completeErr err) { e with phase := .idle }
        (some { status := .busError, rdata := 0, err := some err })
  | readMore (e : Claims.Engine) (i : Instr) (k : Nat) (cur cur' : Latch) (d : DevAddr) (a : RegAddr) (x : Byte) :
      e.phase = .busy i k cur → (planOf i p e.devAddr cur)[k]? = some (.rd d a) →
      cur' = (if k = 0 then { cur with lo := x } else { cur with hi := x }) → k + 1 < planLength i.op p.mode →
      Claims.Row p e (.completeRead x) { e with phase := .busy i (k + 1) cur' } none
  | readLast (e : Claims.Engine) (i : Instr) (k : Nat) (cur cur' : Latch) (d : DevAddr) (a : RegAddr) (x : Byte) :
      e.phase = .busy i k cur → (planOf i p e.devAddr cur)[k]? = some (.rd d a) →
      cur' = (if k = 0 then { cur with lo := x } else { cur with hi := x }) → k + 1 = planLength i.op p.mode →
      Claims.Row p e (.completeRead x) { e with phase := .idle }
        (some { status := .ok, rdata := extractResult p.mode i.slot cur', err := none })
  | writeMore (e : Claims.Engine) (i : Instr) (k : Nat) (cur : Latch) (d : DevAddr) (a : RegAddr) (v : Byte) :
      e.phase = .busy i k cur → (planOf i p e.devAddr cur)[k]? = some (.wr d a v) →
      k + 1 < planLength i.op p.mode →
      Claims.Row p e .completeWrite { e with phase := .busy i (k + 1) cur } none
  | writeLast (e : Claims.Engine) (i : Instr) (k : Nat) (cur : Latch) (d : DevAddr) (a : RegAddr) (v : Byte) :
      e.phase = .busy i k cur → (planOf i p e.devAddr cur)[k]? = some (.wr d a v) →
      k + 1 = planLength i.op p.mode →
      Claims.Row p e .completeWrite
        { e with phase := .idle,
                 tag := fun s => if s = i.slot then (commitTag i.op).getD (e.tag s) else e.tag s }
        (some { status := .ok, rdata := 0, err := none })

/-- The model's state as a state of R113's table. -/
def Sys2Proof.Claims.engineOf (s : State) : Claims.Engine :=
  { devAddr := s.devAddr, tag := s.tag,
    phase := match s.phase with
      | .idle => .idle
      | .busy => match decode s.params s.opreg with
        | .illegal _ => .idle
        | .cmd i => .busy i s.stepNo.toNat s.cur }

/-- The label is what the agent whose turn it is has next: the host's request, or the transport's answer, a read's byte
being what its register holds. -/
def Sys2Proof.Claims.Offered (s : State) (l : Claims.Label) : Prop :=
  match l with
  | .reset dev => ∃ rest, s.hostIn = .reset dev :: rest
  | .issue w => ∃ rest, s.hostIn = .issue w :: rest
  | .completeErr e => ∃ b rest, s.busIn = .err e b :: rest
  | .completeRead x => ∃ d a rest, s.busIn = .ok :: rest ∧ s.outstanding = some (.rd d a) ∧ x = s.reg d a
  | .completeWrite => ∃ rest, s.busIn = .ok :: rest

/-- What leaves the engine as it is (log entry 11): the environment's write stands first, or the agent whose turn it is
has nothing to do. -/
def Sys2Proof.Claims.NothingForEngine (s : State) : Prop :=
  (∃ d a v rest, s.envIn = .write d a v :: rest) ∨
  (Claims.EngineTurn s ∧ ((s.phase = .idle ∧ s.hostIn = []) ∨ (s.phase = .busy ∧ s.busIn = [])))

/-- O53 (R113; log entry 11): the machine refines the transition table: every step of a sound state is a row of the
table for the label on offer, with the row's response; or there was nothing for the engine (the environment's turn, or
the host or the transport has no input), and the step changes nothing the table speaks of and emits nothing. -/
def Obligations.StepFollowsTransitionTable : Prop :=
  ∀ s t : State, s.Sound → step s = .next t →
    (Claims.NothingForEngine s ∧ Claims.engineOf t = Claims.engineOf s ∧ t.output = none) ∨
    (Claims.EngineTurn s ∧
      ∃ l, Claims.Offered s l ∧ Claims.Row s.params (Claims.engineOf s) l (Claims.engineOf t) t.output)

/-! ## The response word -/

/-- O54 (R80, R81): the response word has the code of its status in bits 17:16 (`OK` 0, `BUS_ERROR` 1, `GATED` 2,
`ILLEGAL` 3) and `RDATA` in bits 15:0. -/
def Obligations.ResponseWordFields : Prop :=
  ∀ r : Response,
    (responseWord r).extractLsb' 16 2 = (match r.status with
      | .ok => 0b00
      | .busError => 0b01
      | .gated => 0b10
      | .illegal => 0b11) ∧
    (responseWord r).extractLsb' 0 16 = r.rdata
end

