-- ==== Sys2Proof/Laws/Decode.lean ====
section
/-! SUPPORT. The fields of an encoded command, the opcode map, and the row of a word. -/

namespace Sys2Proof

theorem fieldOpc_encode (i : Instr) : fieldOpc (encode i) = i.op.code := by
  apply BitVec.eq_of_getLsbD_eq
  intro j hj
  simp only [fieldOpc, encode, BitVec.getLsbD_extractLsb', BitVec.getLsbD_append]
  simp [hj, show ¬ 20 + j < 16 by omega, show ¬ 20 + j - 16 < 4 by omega, show 20 + j - 16 - 4 = j by omega]

theorem fieldSel_encode (i : Instr) : fieldSel (encode i) = i.slot := by
  apply BitVec.eq_of_getLsbD_eq
  intro j hj
  simp only [fieldSel, encode, BitVec.getLsbD_extractLsb', BitVec.getLsbD_append]
  simp [hj]

theorem fieldData_encode (i : Instr) : fieldData (encode i) = i.data := by
  apply BitVec.eq_of_getLsbD_eq
  intro j hj
  simp only [fieldData, encode, BitVec.getLsbD_extractLsb', BitVec.getLsbD_append]
  simp [hj]

/-- A word is its three fields (R70). -/
theorem word_fields (w : CmdWord) : ((fieldOpc w ++ fieldSel w : BitVec 8) ++ fieldData w : BitVec 24) = w := by
  apply BitVec.eq_of_getLsbD_eq
  intro j hj
  simp only [fieldOpc, fieldSel, fieldData, BitVec.getLsbD_extractLsb', BitVec.getLsbD_append]
  by_cases h1 : j < 16
  · simp [h1]
  · by_cases h2 : j < 20
    · simp [h1, show j - 16 < 4 by omega, show 16 + (j - 16) = j by omega]
    · simp [h1, show ¬ j - 16 < 4 by omega, show j - 16 - 4 < 4 by omega, show 20 + (j - 16 - 4) = j by omega]

theorem opOf_code (o : Op) : opOf o.code = some o := by cases o <;> rfl

theorem code_of_opOf {c : BitVec 4} {o : Op} (h : opOf c = some o) : o.code = c := by
  revert h o
  revert c
  decide

@[simp] theorem Op.instr_op (o : Op) (s : Slot) (d : Word) : (o.instr s d).op = o := by cases o <;> rfl

@[simp] theorem Op.instr_slot (o : Op) (s : Slot) (d : Word) : (o.instr s d).slot = s := by cases o <;> rfl

theorem Op.instr_data (o : Op) (s : Slot) (d : Word) : (o.instr s d).data = if o.hasOperand then d else 0 := by
  cases o <;> rfl

theorem Op.instr_self (i : Instr) : i.op.instr i.slot i.data = i := by cases i <;> rfl

/-- A command without an operand has no data (R73). -/
theorem Instr.data_zero {i : Instr} (h : i.op.hasOperand = false) : i.data = 0 := by
  cases i <;> first | rfl | exact absurd h Bool.noConfusion

/-- What `decode` answers: the command of the three fields, exactly when all checks of R75 pass. -/
theorem decode_cmd_iff {p : Params} {w : CmdWord} {i : Instr} :
    decode p w = .cmd i ↔
      opOf (fieldOpc w) = some i.op ∧ fieldSel w = i.slot ∧ fieldData w = i.data ∧ i.wf p = true := by
  constructor
  · intro h
    unfold decode at h
    split at h
    · cases h
    · rename_i o ho
      split_ifs at h with h1 h2 h3
      cases h
      have hd : fieldData w = (o.instr (fieldSel w) (fieldData w)).data := by
        rw [Op.instr_data]
        split
        · rfl
        · rename_i h4
          simpa [Params.dataLegal, h4] using h3
      refine ⟨by simpa using ho, by simp, hd, ?_⟩
      rw [Instr.wf, ← hd, Op.instr_op, Op.instr_slot]
      simp only [Bool.not_eq_false] at h1 h2 h3
      simp only [h1, h2, h3, Bool.and_self]
  · rintro ⟨h1, h2, h3, h4⟩
    rw [Instr.wf] at h4
    simp only [Bool.and_eq_true] at h4
    obtain ⟨⟨h5, h6⟩, h7⟩ := h4
    simp [decode, h1, h2, h3, h5, h6, h7, Op.instr_self]

/-- The row of a word, by its fields. -/
theorem decodeRow_encode (i : Instr) : decodeRow (encode i) = some i := by
  simp only [decodeRow, fieldOpc_encode, fieldSel_encode, fieldData_encode, opOf_code, Op.instr_self]
  split
  · rename_i h
    exact absurd (Instr.data_zero h.1) h.2
  · rfl

end Sys2Proof
end

