-- ==== Sys2Proof/Laws/Memory.lean ====
section
/-! SUPPORT. The register space: what a read gives after a write, and that every write keeps the canonical form. -/

namespace Sys2Proof.Machine

theorem Memory.wfFrom_cons {lo a : Nat} {v : Byte} {m : Memory} :
    Memory.wfFrom lo ((a, v) :: m) = true ↔
      lo ≤ a ∧ a < 32768 ∧ v ≠ Memory.unlisted ∧ Memory.wfFrom (a + 1) m = true := by
  simp [Memory.wfFrom, and_assoc]

theorem Memory.wfFrom_mono {lo lo' : Nat} {m : Memory} (h : lo' ≤ lo) (hm : Memory.wfFrom lo m = true) :
    Memory.wfFrom lo' m = true := by
  cases m with
  | nil => rfl
  | cons c m =>
    obtain ⟨h1, h2⟩ := Memory.wfFrom_cons.1 hm
    exact Memory.wfFrom_cons.2 ⟨by omega, h2⟩

/-- An address below every listed one reads as unlisted. -/
theorem Memory.read_below {lo a : Nat} {m : Memory} (hm : Memory.wfFrom lo m = true) (h : a < lo) :
    Memory.read m a = Memory.unlisted := by
  induction m generalizing lo with
  | nil => rfl
  | cons c m ih =>
    obtain ⟨k, v⟩ := c
    obtain ⟨h1, _, _, h4⟩ := Memory.wfFrom_cons.1 hm
    have hk : k ≠ a := by omega
    simpa [Memory.read, hk] using ih h4 (by omega)

theorem Memory.read_write_same_from {lo : Nat} {m : Memory} (hm : Memory.wfFrom lo m = true) (a : Nat) (v : Byte) :
    Memory.read (Memory.write m a v) a = v := by
  induction m generalizing lo with
  | nil =>
    by_cases hv : v = Memory.unlisted <;> simp [Memory.write, Memory.read, hv]
  | cons c m ih =>
    obtain ⟨k, x⟩ := c
    obtain ⟨_, _, _, h4⟩ := Memory.wfFrom_cons.1 hm
    rcases Nat.lt_trichotomy a k with h | h | h
    · have hk : k ≠ a := by omega
      by_cases hv : v = Memory.unlisted
      · simpa [Memory.write, h, hv, Memory.read, hk] using Memory.read_below h4 (by omega)
      · simp [Memory.write, h, hv, Memory.read]
    · subst h
      by_cases hv : v = Memory.unlisted
      · simpa [Memory.write, hv] using Memory.read_below h4 (by omega)
      · simp [Memory.write, hv, Memory.read]
    · have h1 : ¬ a < k := by omega
      have h2 : a ≠ k := by omega
      simpa [Memory.write, h1, h2, Memory.read, Ne.symm h2] using ih h4

/-- A read after a write of the same address gives the byte written. -/
theorem Memory.read_write_same {m : Memory} (hm : m.wf = true) (a : Nat) (v : Byte) :
    Memory.read (Memory.write m a v) a = v :=
  Memory.read_write_same_from hm a v

/-- A write leaves every other address alone. -/
theorem Memory.read_write_other (m : Memory) {a b : Nat} (v : Byte) (h : a ≠ b) :
    Memory.read (Memory.write m a v) b = Memory.read m b := by
  induction m with
  | nil => by_cases hv : v = Memory.unlisted <;> simp [Memory.write, Memory.read, hv, h]
  | cons c m ih =>
    obtain ⟨k, x⟩ := c
    rcases Nat.lt_trichotomy a k with h1 | h1 | h1
    · by_cases hv : v = Memory.unlisted <;> simp [Memory.write, h1, hv, Memory.read, h]
    · subst h1
      by_cases hv : v = Memory.unlisted <;> simp [Memory.write, hv, Memory.read, h]
    · have h2 : ¬ a < k := by omega
      have h3 : a ≠ k := by omega
      simp [Memory.write, h2, h3, Memory.read, ih]

theorem Memory.wfFrom_write {lo a : Nat} {m : Memory} (hm : Memory.wfFrom lo m = true) (h1 : lo ≤ a)
    (h2 : a < 32768) (v : Byte) : Memory.wfFrom lo (Memory.write m a v) = true := by
  induction m generalizing lo with
  | nil =>
    by_cases hv : v = Memory.unlisted
    · simp [Memory.write, hv, Memory.wfFrom]
    · simp [Memory.write, hv, Memory.wfFrom, h1, h2]
  | cons c m ih =>
    obtain ⟨k, x⟩ := c
    obtain ⟨h3, h4, h5, h6⟩ := Memory.wfFrom_cons.1 hm
    rcases Nat.lt_trichotomy a k with h | h | h
    · by_cases hv : v = Memory.unlisted
      · simpa [Memory.write, h, hv] using hm
      · simp only [Memory.write, h, hv, if_true, if_false]
        exact Memory.wfFrom_cons.2 ⟨h1, h2, hv, Memory.wfFrom_cons.2 ⟨by omega, h4, h5, h6⟩⟩
    · subst h
      by_cases hv : v = Memory.unlisted
      · simpa [Memory.write, hv] using Memory.wfFrom_mono (by omega) h6
      · simpa [Memory.write, hv, Memory.wfFrom_cons, h1, h2] using h6
    · have h7 : ¬ a < k := by omega
      have h8 : a ≠ k := by omega
      simpa [Memory.write, h7, h8, Memory.wfFrom_cons, h3, h4, h5] using ih h6 (by omega)

/-- A write inside the address space keeps the canonical form. -/
theorem Memory.wf_write {m : Memory} (hm : m.wf = true) {a : Nat} (h : a < 32768) (v : Byte) :
    (Memory.write m a v).wf = true :=
  Memory.wfFrom_write hm (Nat.zero_le a) h v

/-- The address pair is inside the 15-bit address space (R40). -/
theorem busKey_lt (dev : DevAddr) (a : RegAddr) : busKey dev a < 32768 := by
  have := dev.isLt
  have := a.isLt
  simp only [busKey]
  omega

/-- Different address pairs are different addresses. -/
theorem busKey_inj {d d' : DevAddr} {a a' : RegAddr} : busKey d a = busKey d' a' ↔ d = d' ∧ a = a' := by
  have := a.isLt
  have := a'.isLt
  constructor
  · intro h
    simp only [busKey] at h
    exact ⟨BitVec.eq_of_toNat_eq (by omega), BitVec.eq_of_toNat_eq (by omega)⟩
  · rintro ⟨rfl, rfl⟩
    rfl

theorem State.reg_setReg_same {s : State} (hm : s.mem.wf = true) (d : DevAddr) (a : RegAddr) (v : Byte) :
    (s.setReg d a v).reg d a = v :=
  Memory.read_write_same hm _ _

theorem State.reg_setReg_other (s : State) {d d' : DevAddr} {a a' : RegAddr} (v : Byte)
    (h : d' ≠ d ∨ a' ≠ a) : (s.setReg d a v).reg d' a' = s.reg d' a' := by
  refine Memory.read_write_other _ _ fun e => ?_
  obtain ⟨rfl, rfl⟩ := busKey_inj.1 e
  exact h.elim (· rfl) (· rfl)

theorem State.setReg_wf {s : State} (hm : s.mem.wf = true) (d : DevAddr) (a : RegAddr) (v : Byte) :
    (s.setReg d a v).mem.wf = true :=
  Memory.wf_write hm (busKey_lt d a) v

/-- A write transaction keeps the canonical form (R51, R62). -/
theorem State.busWrite_wf {s : State} (hm : s.mem.wf = true) (d : DevAddr) (a : RegAddr) (v : Byte) :
    (s.busWrite d a v).mem.wf = true := by
  unfold State.busWrite
  split
  · exact State.setReg_wf hm d a v
  · exact State.setReg_wf (State.setReg_wf hm d a v) _ _ v

/-- After a write transaction the register it names holds its byte (R51). -/
theorem State.reg_busWrite_same {s : State} (hm : s.mem.wf = true) (d : DevAddr) (a : RegAddr) (v : Byte) :
    (s.busWrite d a v).reg d a = v := by
  unfold State.busWrite
  split
  · exact State.reg_setReg_same hm d a v
  · rename_i l _
    by_cases h : a = l
    · subst h
      exact State.reg_setReg_same (State.setReg_wf hm d a v) d a v
    · rw [State.reg_setReg_other _ v (Or.inr h)]
      exact State.reg_setReg_same hm d a v

/-- A write transaction leaves every register alone but the one it names and, on the mock chip, the coupled latch. -/
theorem State.reg_busWrite_other (s : State) {d d' : DevAddr} {a a' : RegAddr} (v : Byte)
    (h : d' ≠ d ∨ (a' ≠ a ∧ coupledLatch s.params a ≠ some a')) :
    (s.busWrite d a v).reg d' a' = s.reg d' a' := by
  have h1 : d' ≠ d ∨ a' ≠ a := h.imp_right And.left
  unfold State.busWrite
  split
  · exact State.reg_setReg_other s v h1
  · rename_i l hl
    have h2 : d' ≠ d ∨ a' ≠ l := h.imp_right fun h => by
      rintro rfl
      exact h.2 hl
    rw [State.reg_setReg_other _ v h2, State.reg_setReg_other s v h1]

/-- On the mock chip a write of `GPIO` also sets the coupled latch (R62). -/
theorem State.reg_busWrite_coupled {s : State} (hm : s.mem.wf = true) (d : DevAddr) {a l : RegAddr} (v : Byte)
    (hl : coupledLatch s.params a = some l) : (s.busWrite d a v).reg d l = v := by
  simp only [State.busWrite, hl]
  exact State.reg_setReg_same (State.setReg_wf hm d a v) d l v

theorem State.reset_mem_wf : State.reset.mem.wf = true := rfl

end Sys2Proof.Machine
end

