-- ==== Sys2Proof/Laws/State.lean ====
section
/-! SUPPORT. One small lemma per field per update of the state, so that no later proof unfolds a record update. -/

namespace Sys2Proof.Machine

section
variable (s : State)

@[simp] theorem State.quiet_params : s.quiet.params = s.params := rfl
@[simp] theorem State.quiet_devAddr : s.quiet.devAddr = s.devAddr := rfl
@[simp] theorem State.quiet_tags : s.quiet.tags = s.tags := rfl
@[simp] theorem State.quiet_phase : s.quiet.phase = s.phase := rfl
@[simp] theorem State.quiet_opreg : s.quiet.opreg = s.opreg := rfl
@[simp] theorem State.quiet_stepNo : s.quiet.stepNo = s.stepNo := rfl
@[simp] theorem State.quiet_cur : s.quiet.cur = s.cur := rfl
@[simp] theorem State.quiet_output : s.quiet.output = none := rfl
@[simp] theorem State.quiet_mem : s.quiet.mem = s.mem := rfl
@[simp] theorem State.quiet_log : s.quiet.log = s.log := rfl
@[simp] theorem State.quiet_issued : s.quiet.issued = s.issued := rfl
@[simp] theorem State.quiet_hostIn : s.quiet.hostIn = s.hostIn := rfl
@[simp] theorem State.quiet_busIn : s.quiet.busIn = s.busIn := rfl
@[simp] theorem State.quiet_envIn : s.quiet.envIn = s.envIn := rfl
@[simp] theorem State.quiet_fresh : s.quiet.fresh = s.fresh := rfl

end

section
variable (s : State) (r : Response)

@[simp] theorem State.respond_params : (s.respond r).params = s.params := rfl
@[simp] theorem State.respond_devAddr : (s.respond r).devAddr = s.devAddr := rfl
@[simp] theorem State.respond_tags : (s.respond r).tags = s.tags := rfl
@[simp] theorem State.respond_phase : (s.respond r).phase = s.phase := rfl
@[simp] theorem State.respond_opreg : (s.respond r).opreg = s.opreg := rfl
@[simp] theorem State.respond_stepNo : (s.respond r).stepNo = s.stepNo := rfl
@[simp] theorem State.respond_cur : (s.respond r).cur = s.cur := rfl
@[simp] theorem State.respond_output : (s.respond r).output = some r := rfl
@[simp] theorem State.respond_mem : (s.respond r).mem = s.mem := rfl
@[simp] theorem State.respond_log : (s.respond r).log = s.log := rfl
@[simp] theorem State.respond_issued : (s.respond r).issued = s.issued := rfl
@[simp] theorem State.respond_hostIn : (s.respond r).hostIn = s.hostIn := rfl
@[simp] theorem State.respond_busIn : (s.respond r).busIn = s.busIn := rfl
@[simp] theorem State.respond_envIn : (s.respond r).envIn = s.envIn := rfl
@[simp] theorem State.respond_fresh : (s.respond r).fresh = s.fresh := rfl

end

section
variable (s : State) 

@[simp] theorem State.toIdle_params : s.toIdle.params = s.params := rfl
@[simp] theorem State.toIdle_devAddr : s.toIdle.devAddr = s.devAddr := rfl
@[simp] theorem State.toIdle_tags : s.toIdle.tags = s.tags := rfl
@[simp] theorem State.toIdle_phase : s.toIdle.phase = .idle := rfl
@[simp] theorem State.toIdle_opreg : s.toIdle.opreg = Config.freeOpreg s.fresh := rfl
@[simp] theorem State.toIdle_stepNo : s.toIdle.stepNo = Config.freeStep s.fresh := rfl
@[simp] theorem State.toIdle_cur : s.toIdle.cur = Latch.ofWord (Config.freeCur s.fresh) := rfl
@[simp] theorem State.toIdle_output : s.toIdle.output = s.output := rfl
@[simp] theorem State.toIdle_mem : s.toIdle.mem = s.mem := rfl
@[simp] theorem State.toIdle_log : s.toIdle.log = s.log := rfl
@[simp] theorem State.toIdle_issued : s.toIdle.issued = s.issued := rfl
@[simp] theorem State.toIdle_hostIn : s.toIdle.hostIn = s.hostIn := rfl
@[simp] theorem State.toIdle_busIn : s.toIdle.busIn = s.busIn := rfl
@[simp] theorem State.toIdle_envIn : s.toIdle.envIn = s.envIn := rfl
@[simp] theorem State.toIdle_fresh : s.toIdle.fresh = s.fresh + 1 := rfl

end

section
variable (s : State) (w : CmdWord)

@[simp] theorem State.begin_params : (s.begin w).params = s.params := rfl
@[simp] theorem State.begin_devAddr : (s.begin w).devAddr = s.devAddr := rfl
@[simp] theorem State.begin_tags : (s.begin w).tags = s.tags := rfl
@[simp] theorem State.begin_phase : (s.begin w).phase = .busy := rfl
@[simp] theorem State.begin_opreg : (s.begin w).opreg = w := rfl
@[simp] theorem State.begin_stepNo : (s.begin w).stepNo = 0 := rfl
@[simp] theorem State.begin_cur : (s.begin w).cur = Latch.ofWord (Config.freeCur s.fresh) := rfl
@[simp] theorem State.begin_output : (s.begin w).output = none := rfl
@[simp] theorem State.begin_mem : (s.begin w).mem = s.mem := rfl
@[simp] theorem State.begin_log : (s.begin w).log = s.log := rfl
@[simp] theorem State.begin_issued : (s.begin w).issued = s.issued + 1 := rfl
@[simp] theorem State.begin_hostIn : (s.begin w).hostIn = s.hostIn := rfl
@[simp] theorem State.begin_busIn : (s.begin w).busIn = s.busIn := rfl
@[simp] theorem State.begin_envIn : (s.begin w).envIn = s.envIn := rfl
@[simp] theorem State.begin_fresh : (s.begin w).fresh = s.fresh + 1 := rfl

end

section
variable (s : State) 

@[simp] theorem State.advance_params : s.advance.params = s.params := rfl
@[simp] theorem State.advance_devAddr : s.advance.devAddr = s.devAddr := rfl
@[simp] theorem State.advance_tags : s.advance.tags = s.tags := rfl
@[simp] theorem State.advance_phase : s.advance.phase = s.phase := rfl
@[simp] theorem State.advance_opreg : s.advance.opreg = s.opreg := rfl
@[simp] theorem State.advance_stepNo : s.advance.stepNo = s.stepNo + 1 := rfl
@[simp] theorem State.advance_cur : s.advance.cur = s.cur := rfl
@[simp] theorem State.advance_output : s.advance.output = none := rfl
@[simp] theorem State.advance_mem : s.advance.mem = s.mem := rfl
@[simp] theorem State.advance_log : s.advance.log = s.log := rfl
@[simp] theorem State.advance_issued : s.advance.issued = s.issued + 1 := rfl
@[simp] theorem State.advance_hostIn : s.advance.hostIn = s.hostIn := rfl
@[simp] theorem State.advance_busIn : s.advance.busIn = s.busIn := rfl
@[simp] theorem State.advance_envIn : s.advance.envIn = s.envIn := rfl
@[simp] theorem State.advance_fresh : s.advance.fresh = s.fresh := rfl

end

section
variable (s : State) (d : DevAddr) (a : RegAddr) (v : Byte)

@[simp] theorem State.setReg_params : (s.setReg d a v).params = s.params := rfl
@[simp] theorem State.setReg_devAddr : (s.setReg d a v).devAddr = s.devAddr := rfl
@[simp] theorem State.setReg_tags : (s.setReg d a v).tags = s.tags := rfl
@[simp] theorem State.setReg_phase : (s.setReg d a v).phase = s.phase := rfl
@[simp] theorem State.setReg_opreg : (s.setReg d a v).opreg = s.opreg := rfl
@[simp] theorem State.setReg_stepNo : (s.setReg d a v).stepNo = s.stepNo := rfl
@[simp] theorem State.setReg_cur : (s.setReg d a v).cur = s.cur := rfl
@[simp] theorem State.setReg_output : (s.setReg d a v).output = s.output := rfl
@[simp] theorem State.setReg_mem : (s.setReg d a v).mem = s.mem.write (busKey d a) v := rfl
@[simp] theorem State.setReg_log : (s.setReg d a v).log = s.log := rfl
@[simp] theorem State.setReg_issued : (s.setReg d a v).issued = s.issued := rfl
@[simp] theorem State.setReg_hostIn : (s.setReg d a v).hostIn = s.hostIn := rfl
@[simp] theorem State.setReg_busIn : (s.setReg d a v).busIn = s.busIn := rfl
@[simp] theorem State.setReg_envIn : (s.setReg d a v).envIn = s.envIn := rfl
@[simp] theorem State.setReg_fresh : (s.setReg d a v).fresh = s.fresh := rfl

end

section
variable (s : State) (k : Slot) (t : Tag)

@[simp] theorem State.setTag_params : (s.setTag k t).params = s.params := rfl
@[simp] theorem State.setTag_devAddr : (s.setTag k t).devAddr = s.devAddr := rfl
@[simp] theorem State.setTag_tags : (s.setTag k t).tags = s.tags.set k.toNat t k.isLt := rfl
@[simp] theorem State.setTag_phase : (s.setTag k t).phase = s.phase := rfl
@[simp] theorem State.setTag_opreg : (s.setTag k t).opreg = s.opreg := rfl
@[simp] theorem State.setTag_stepNo : (s.setTag k t).stepNo = s.stepNo := rfl
@[simp] theorem State.setTag_cur : (s.setTag k t).cur = s.cur := rfl
@[simp] theorem State.setTag_output : (s.setTag k t).output = s.output := rfl
@[simp] theorem State.setTag_mem : (s.setTag k t).mem = s.mem := rfl
@[simp] theorem State.setTag_log : (s.setTag k t).log = s.log := rfl
@[simp] theorem State.setTag_issued : (s.setTag k t).issued = s.issued := rfl
@[simp] theorem State.setTag_hostIn : (s.setTag k t).hostIn = s.hostIn := rfl
@[simp] theorem State.setTag_busIn : (s.setTag k t).busIn = s.busIn := rfl
@[simp] theorem State.setTag_envIn : (s.setTag k t).envIn = s.envIn := rfl
@[simp] theorem State.setTag_fresh : (s.setTag k t).fresh = s.fresh := rfl

end

section
variable (s : State) (d : DevAddr)

@[simp] theorem State.resetEngine_params : (s.resetEngine d).params = s.params := rfl
@[simp] theorem State.resetEngine_devAddr : (s.resetEngine d).devAddr = d := rfl
@[simp] theorem State.resetEngine_tags : (s.resetEngine d).tags = Vector.replicate 16 .unconfigured := rfl
@[simp] theorem State.resetEngine_phase : (s.resetEngine d).phase = .idle := rfl
@[simp] theorem State.resetEngine_opreg : (s.resetEngine d).opreg = Config.freeOpreg s.fresh := rfl
@[simp] theorem State.resetEngine_stepNo : (s.resetEngine d).stepNo = 0 := rfl
@[simp] theorem State.resetEngine_cur : (s.resetEngine d).cur = Latch.ofWord (Config.freeCur s.fresh) := rfl
@[simp] theorem State.resetEngine_output : (s.resetEngine d).output = none := rfl
@[simp] theorem State.resetEngine_mem : (s.resetEngine d).mem = s.mem := rfl
@[simp] theorem State.resetEngine_log : (s.resetEngine d).log = s.log := rfl
@[simp] theorem State.resetEngine_issued : (s.resetEngine d).issued = s.issued := rfl
@[simp] theorem State.resetEngine_hostIn : (s.resetEngine d).hostIn = s.hostIn := rfl
@[simp] theorem State.resetEngine_busIn : (s.resetEngine d).busIn = s.busIn := rfl
@[simp] theorem State.resetEngine_envIn : (s.resetEngine d).envIn = s.envIn := rfl
@[simp] theorem State.resetEngine_fresh : (s.resetEngine d).fresh = s.fresh + 1 := rfl

end

section
variable (s : State) (d : DevAddr) (a : RegAddr) (v : Byte)

@[simp] theorem State.busWrite_params : (s.busWrite d a v).params = s.params := by
  unfold State.busWrite; split <;> rfl
@[simp] theorem State.busWrite_devAddr : (s.busWrite d a v).devAddr = s.devAddr := by
  unfold State.busWrite; split <;> rfl
@[simp] theorem State.busWrite_tags : (s.busWrite d a v).tags = s.tags := by
  unfold State.busWrite; split <;> rfl
@[simp] theorem State.busWrite_phase : (s.busWrite d a v).phase = s.phase := by
  unfold State.busWrite; split <;> rfl
@[simp] theorem State.busWrite_opreg : (s.busWrite d a v).opreg = s.opreg := by
  unfold State.busWrite; split <;> rfl
@[simp] theorem State.busWrite_stepNo : (s.busWrite d a v).stepNo = s.stepNo := by
  unfold State.busWrite; split <;> rfl
@[simp] theorem State.busWrite_cur : (s.busWrite d a v).cur = s.cur := by
  unfold State.busWrite; split <;> rfl
@[simp] theorem State.busWrite_output : (s.busWrite d a v).output = s.output := by
  unfold State.busWrite; split <;> rfl
@[simp] theorem State.busWrite_log : (s.busWrite d a v).log = s.log := by
  unfold State.busWrite; split <;> rfl
@[simp] theorem State.busWrite_issued : (s.busWrite d a v).issued = s.issued := by
  unfold State.busWrite; split <;> rfl
@[simp] theorem State.busWrite_hostIn : (s.busWrite d a v).hostIn = s.hostIn := by
  unfold State.busWrite; split <;> rfl
@[simp] theorem State.busWrite_busIn : (s.busWrite d a v).busIn = s.busIn := by
  unfold State.busWrite; split <;> rfl
@[simp] theorem State.busWrite_envIn : (s.busWrite d a v).envIn = s.envIn := by
  unfold State.busWrite; split <;> rfl
@[simp] theorem State.busWrite_fresh : (s.busWrite d a v).fresh = s.fresh := by
  unfold State.busWrite; split <;> rfl

end

section
variable (s : State) (k : Slot) (c : Option Tag)

@[simp] theorem State.commit_params : (s.commit k c).params = s.params := by
  cases c <;> rfl
@[simp] theorem State.commit_devAddr : (s.commit k c).devAddr = s.devAddr := by
  cases c <;> rfl
@[simp] theorem State.commit_phase : (s.commit k c).phase = s.phase := by
  cases c <;> rfl
@[simp] theorem State.commit_opreg : (s.commit k c).opreg = s.opreg := by
  cases c <;> rfl
@[simp] theorem State.commit_stepNo : (s.commit k c).stepNo = s.stepNo := by
  cases c <;> rfl
@[simp] theorem State.commit_cur : (s.commit k c).cur = s.cur := by
  cases c <;> rfl
@[simp] theorem State.commit_output : (s.commit k c).output = s.output := by
  cases c <;> rfl
@[simp] theorem State.commit_mem : (s.commit k c).mem = s.mem := by
  cases c <;> rfl
@[simp] theorem State.commit_log : (s.commit k c).log = s.log := by
  cases c <;> rfl
@[simp] theorem State.commit_issued : (s.commit k c).issued = s.issued := by
  cases c <;> rfl
@[simp] theorem State.commit_hostIn : (s.commit k c).hostIn = s.hostIn := by
  cases c <;> rfl
@[simp] theorem State.commit_busIn : (s.commit k c).busIn = s.busIn := by
  cases c <;> rfl
@[simp] theorem State.commit_envIn : (s.commit k c).envIn = s.envIn := by
  cases c <;> rfl
@[simp] theorem State.commit_fresh : (s.commit k c).fresh = s.fresh := by
  cases c <;> rfl

end

section
variable (s : State) (q : Request)

@[simp] theorem State.transact_params : (s.transact q).params = s.params := by
  cases q <;> simp [State.transact]
@[simp] theorem State.transact_devAddr : (s.transact q).devAddr = s.devAddr := by
  cases q <;> simp [State.transact]
@[simp] theorem State.transact_tags : (s.transact q).tags = s.tags := by
  cases q <;> simp [State.transact]
@[simp] theorem State.transact_phase : (s.transact q).phase = s.phase := by
  cases q <;> simp [State.transact]
@[simp] theorem State.transact_opreg : (s.transact q).opreg = s.opreg := by
  cases q <;> simp [State.transact]
@[simp] theorem State.transact_stepNo : (s.transact q).stepNo = s.stepNo := by
  cases q <;> simp [State.transact]
@[simp] theorem State.transact_output : (s.transact q).output = s.output := by
  cases q <;> simp [State.transact]
@[simp] theorem State.transact_issued : (s.transact q).issued = s.issued := by
  cases q <;> simp [State.transact]
@[simp] theorem State.transact_hostIn : (s.transact q).hostIn = s.hostIn := by
  cases q <;> simp [State.transact]
@[simp] theorem State.transact_busIn : (s.transact q).busIn = s.busIn := by
  cases q <;> simp [State.transact]
@[simp] theorem State.transact_envIn : (s.transact q).envIn = s.envIn := by
  cases q <;> simp [State.transact]
@[simp] theorem State.transact_fresh : (s.transact q).fresh = s.fresh := by
  cases q <;> simp [State.transact]

end

section
variable (s : State) (q : Request) (b : Bool)

@[simp] theorem State.failEffect_params : (s.failEffect q b).params = s.params := by
  cases q <;> cases b <;> simp [State.failEffect]
@[simp] theorem State.failEffect_devAddr : (s.failEffect q b).devAddr = s.devAddr := by
  cases q <;> cases b <;> simp [State.failEffect]
@[simp] theorem State.failEffect_tags : (s.failEffect q b).tags = s.tags := by
  cases q <;> cases b <;> simp [State.failEffect]
@[simp] theorem State.failEffect_phase : (s.failEffect q b).phase = s.phase := by
  cases q <;> cases b <;> simp [State.failEffect]
@[simp] theorem State.failEffect_opreg : (s.failEffect q b).opreg = s.opreg := by
  cases q <;> cases b <;> simp [State.failEffect]
@[simp] theorem State.failEffect_stepNo : (s.failEffect q b).stepNo = s.stepNo := by
  cases q <;> cases b <;> simp [State.failEffect]
@[simp] theorem State.failEffect_cur : (s.failEffect q b).cur = s.cur := by
  cases q <;> cases b <;> simp [State.failEffect]
@[simp] theorem State.failEffect_output : (s.failEffect q b).output = s.output := by
  cases q <;> cases b <;> simp [State.failEffect]
@[simp] theorem State.failEffect_log : (s.failEffect q b).log = s.log := by
  cases q <;> cases b <;> simp [State.failEffect]
@[simp] theorem State.failEffect_issued : (s.failEffect q b).issued = s.issued := by
  cases q <;> cases b <;> simp [State.failEffect]
@[simp] theorem State.failEffect_hostIn : (s.failEffect q b).hostIn = s.hostIn := by
  cases q <;> cases b <;> simp [State.failEffect]
@[simp] theorem State.failEffect_busIn : (s.failEffect q b).busIn = s.busIn := by
  cases q <;> cases b <;> simp [State.failEffect]
@[simp] theorem State.failEffect_envIn : (s.failEffect q b).envIn = s.envIn := by
  cases q <;> cases b <;> simp [State.failEffect]
@[simp] theorem State.failEffect_fresh : (s.failEffect q b).fresh = s.fresh := by
  cases q <;> cases b <;> simp [State.failEffect]

end

section
variable (s : State) (e : TErr)

@[simp] theorem State.raiseBusError_params : (s.raiseBusError e).params = s.params := by
  rfl
@[simp] theorem State.raiseBusError_devAddr : (s.raiseBusError e).devAddr = s.devAddr := by
  rfl
@[simp] theorem State.raiseBusError_tags : (s.raiseBusError e).tags = s.tags := by
  rfl
@[simp] theorem State.raiseBusError_mem : (s.raiseBusError e).mem = s.mem := by
  rfl
@[simp] theorem State.raiseBusError_log : (s.raiseBusError e).log = s.log := by
  rfl
@[simp] theorem State.raiseBusError_issued : (s.raiseBusError e).issued = s.issued := by
  rfl
@[simp] theorem State.raiseBusError_hostIn : (s.raiseBusError e).hostIn = s.hostIn := by
  rfl
@[simp] theorem State.raiseBusError_busIn : (s.raiseBusError e).busIn = s.busIn := by
  rfl
@[simp] theorem State.raiseBusError_envIn : (s.raiseBusError e).envIn = s.envIn := by
  rfl

end

section
variable (s : State) (k : Slot) (c : Option Tag) (f : Latch → Word)

@[simp] theorem State.finish_params : (s.finish k c f).params = s.params := by
  simp [State.finish]
@[simp] theorem State.finish_devAddr : (s.finish k c f).devAddr = s.devAddr := by
  simp [State.finish]
@[simp] theorem State.finish_mem : (s.finish k c f).mem = s.mem := by
  simp [State.finish]
@[simp] theorem State.finish_log : (s.finish k c f).log = s.log := by
  simp [State.finish]
@[simp] theorem State.finish_issued : (s.finish k c f).issued = s.issued := by
  simp [State.finish]
@[simp] theorem State.finish_hostIn : (s.finish k c f).hostIn = s.hostIn := by
  simp [State.finish]
@[simp] theorem State.finish_busIn : (s.finish k c f).busIn = s.busIn := by
  simp [State.finish]
@[simp] theorem State.finish_envIn : (s.finish k c f).envIn = s.envIn := by
  simp [State.finish]

end

section
variable (s : State) (k : Slot) (c : Option Tag) (f : Latch → Word) (e : TErr)

@[simp] theorem State.raiseBusError_phase : (s.raiseBusError e).phase = .idle := rfl
@[simp] theorem State.raiseBusError_output : (s.raiseBusError e).output = some (busErrorResponse e) := rfl
@[simp] theorem State.finish_phase : (s.finish k c f).phase = .idle := rfl
@[simp] theorem State.finish_output : (s.finish k c f).output = some (okResponse (f s.cur)) := rfl

end

section
variable (s : State) (k : Slot) (f : Latch → Word)

@[simp] theorem State.finish_tags_none : (s.finish k none f).tags = s.tags := rfl
@[simp] theorem State.finish_tags_some (t : Tag) :
    (s.finish k (some t) f).tags = s.tags.set k.toNat t k.isLt := rfl

/-- The tag just written reads back. -/
theorem State.tag_setTag_same (t : Tag) : (s.setTag k t).tag k = t := by
  simp [State.tag]

/-- Tags of different slots are independent (R23). -/
theorem State.tag_setTag_other {k k' : Slot} (t : Tag) (h : k' ≠ k) : (s.setTag k t).tag k' = s.tag k' := by
  have h' : k.toNat ≠ k'.toNat := fun e => h (BitVec.eq_of_toNat_eq e.symm)
  simp [State.tag, h']

/-- A state with the same tags has the same tag of every slot. -/
theorem State.tag_congr {s t : State} (h : t.tags = s.tags) (k : Slot) : t.tag k = s.tag k := by
  simp [State.tag, h]

/-- A state with the same register space has the same registers. -/
theorem State.reg_congr {s t : State} (h : t.mem = s.mem) (d : DevAddr) (a : RegAddr) : t.reg d a = s.reg d a := by
  simp [State.reg, h]

/-- The end of a command leaves the registers alone. -/
theorem State.reg_finish (c : Option Tag) (d : DevAddr) (a : RegAddr) : (s.finish k c f).reg d a = s.reg d a :=
  State.reg_congr (State.finish_mem s k c f) d a

/-- A read transaction leaves the registers alone. -/
@[simp] theorem State.transact_rd_mem (d : DevAddr) (a : RegAddr) : (s.transact (.rd d a)).mem = s.mem := rfl

/-- A write transaction changes the register space as `busWrite` says. -/
@[simp] theorem State.transact_wr_mem (d : DevAddr) (a : RegAddr) (v : Byte) :
    (s.transact (.wr d a v)).mem = (s.busWrite d a v).mem := rfl

/-- A read transaction is logged with the byte the register holds (R61). -/
@[simp] theorem State.transact_rd_log (d : DevAddr) (a : RegAddr) :
    (s.transact (.rd d a)).log = s.log ++ [.rd d a (s.reg d a)] := rfl

/-- A write transaction is logged with its byte (R61). -/
@[simp] theorem State.transact_wr_log (d : DevAddr) (a : RegAddr) (v : Byte) :
    (s.transact (.wr d a v)).log = s.log ++ [.wr d a v] := rfl

/-- A read transaction latches the byte the register holds (R25, R50). -/
@[simp] theorem State.transact_rd_cur (d : DevAddr) (a : RegAddr) :
    (s.transact (.rd d a)).cur = latchByte s.stepNo (s.reg d a) s.cur := rfl

/-- A write transaction leaves `CUR` alone. -/
@[simp] theorem State.transact_wr_cur (d : DevAddr) (a : RegAddr) (v : Byte) :
    (s.transact (.wr d a v)).cur = s.cur := by
  simp [State.transact]

/-- Every tag is `Unconfigured` after a Reset step (R190). -/
theorem State.tag_resetEngine (d : DevAddr) : (s.resetEngine d).tag k = .unconfigured := by
  simp [State.tag]

/-- What a commit does to the tags (R104). -/
theorem State.tag_finish (c : Option Tag) (k' : Slot) :
    (s.finish k c f).tag k' = if k' = k then c.getD (s.tag k) else s.tag k' := by
  cases c with
  | none =>
    rw [State.tag_congr (State.finish_tags_none s k f)]
    split
    · rename_i h
      rw [h]
      rfl
    · rfl
  | some t =>
    have e : (s.finish k (some t) f).tag k' = (s.setTag k t).tag k' := State.tag_congr rfl k'
    by_cases h : k' = k
    · subst h
      simpa using e.trans (State.tag_setTag_same s k' t)
    · simpa [h] using e.trans (State.tag_setTag_other s t h)

end

end Sys2Proof.Machine
end

