-- ==== Sys2Proof/Laws/Exec.lean ====
section
/-! SUPPORT. What `exec` and `step` can do, said once: every later proof cites these instead of unfolding the machine. -/

namespace Sys2Proof.Machine

/-- Every meaning is the shared command engine on its own plan, commit and result. -/
theorem exec_eq (i : Instr) (s : State) :
    exec i s = runCommand i (planOf i s.params s.devAddr s.cur) (commitTag i.op)
      (resultOf i.op s.params.mode i.slot) s := by
  cases i <;> rfl

theorem planOf_length (i : Instr) (p : Params) (dev : DevAddr) (cur : Latch) :
    (planOf i p dev cur).length = planLength i.op p.mode := by
  obtain ⟨mode, _, _, _, _, _, _, _⟩ := p
  cases i <;> cases mode <;> rfl

theorem exec_idle (i : Instr) {s : State} (h : s.phase = .idle) : exec i s = .next (s.accept i) := by
  rw [exec_eq, runCommand, h]

theorem exec_busy {i : Instr} {s : State} (h : s.phase = .busy) (ho : s.opreg = encode i) :
    exec i s = completeStep (planOf i s.params s.devAddr s.cur) i.slot (commitTag i.op)
      (resultOf i.op s.params.mode i.slot) s := by
  rw [exec_eq, runCommand, h]
  exact if_pos ho

theorem exec_busy_other {i : Instr} {s : State} (h : s.phase = .busy) (ho : s.opreg ≠ encode i) :
    exec i s = .next s.quiet := by
  rw [exec_eq, runCommand, h]
  exact if_neg ho

/-- The transport has not answered: the engine waits (R112). -/
theorem completeStep_wait {plan : List Request} {k : Slot} {c : Option Tag} {f : Latch → Word} {s : State}
    {q : Request} (hq : plan[s.stepNo.toNat]? = some q) (hb : s.busIn = []) :
    completeStep plan k c f s = .next s.quiet := by
  simp [completeStep, hq, hb]

/-- The transaction failed (R103). -/
theorem completeStep_err {plan : List Request} {k : Slot} {c : Option Tag} {f : Latch → Word} {s : State}
    {q : Request} {e : TErr} {b : Bool} {rest : List Completion} (hq : plan[s.stepNo.toNat]? = some q)
    (hb : s.busIn = .err e b :: rest) :
    completeStep plan k c f s = .next ((({ s with busIn := rest }).failEffect q b).raiseBusError e) := by
  simp [completeStep, hq, hb]

/-- A transaction that is not the last completed `Ok` (R104). -/
theorem completeStep_more {plan : List Request} {k : Slot} {c : Option Tag} {f : Latch → Word} {s : State}
    {q : Request} {rest : List Completion} (hq : plan[s.stepNo.toNat]? = some q)
    (hb : s.busIn = .ok :: rest) (hl : s.stepNo.toNat + 1 < plan.length) :
    completeStep plan k c f s = .next (({ s with busIn := rest }).transact q).advance := by
  simp [completeStep, hq, hb, hl]

/-- The last transaction completed `Ok` (R104). -/
theorem completeStep_last {plan : List Request} {k : Slot} {c : Option Tag} {f : Latch → Word} {s : State}
    {q : Request} {rest : List Completion} (hq : plan[s.stepNo.toNat]? = some q)
    (hb : s.busIn = .ok :: rest) (hl : ¬ s.stepNo.toNat + 1 < plan.length) :
    completeStep plan k c f s = .next ((({ s with busIn := rest }).transact q).finish k c f) := by
  simp [completeStep, hq, hb, hl]

/-- Everything one completion step that answers a next state can have done (R103, R104, R112). -/
theorem completeStep_cases {plan : List Request} {k : Slot} {c : Option Tag} {f : Latch → Word} {s t : State}
    (h : completeStep plan k c f s = .next t) :
    ∃ q, plan[s.stepNo.toNat]? = some q ∧
      ((s.busIn = [] ∧ t = s.quiet) ∨
       (∃ e b rest, s.busIn = .err e b :: rest ∧
          t = (({ s with busIn := rest }).failEffect q b).raiseBusError e) ∨
       (∃ rest, s.busIn = .ok :: rest ∧ s.stepNo.toNat + 1 < plan.length ∧
          t = (({ s with busIn := rest }).transact q).advance) ∨
       (∃ rest, s.busIn = .ok :: rest ∧ ¬ s.stepNo.toNat + 1 < plan.length ∧
          t = (({ s with busIn := rest }).transact q).finish k c f)) := by
  unfold completeStep at h
  split at h
  · cases h
  · rename_i q hq
    refine ⟨q, hq, ?_⟩
    split at h
    · rename_i hb
      cases h
      exact Or.inl ⟨hb, rfl⟩
    · rename_i e b rest hb
      cases h
      exact Or.inr (Or.inl ⟨e, b, rest, hb, rfl⟩)
    · rename_i rest hb
      split at h
      · rename_i hl
        cases h
        exact Or.inr (Or.inr (Or.inl ⟨rest, hb, hl, rfl⟩))
      · rename_i hl
        cases h
        exact Or.inr (Or.inr (Or.inr ⟨rest, hb, hl, rfl⟩))

/-- What acceptance can do (R101, R164). -/
theorem State.accept_cases (s : State) (i : Instr) :
    (i.wf s.params = false ∧ s.accept i = s.respond illegalResponse) ∨
    (i.wf s.params = true ∧ permitted i.op (s.tag i.slot) = false ∧ s.accept i = s.respond gatedResponse) ∨
    (i.wf s.params = true ∧ permitted i.op (s.tag i.slot) = true ∧ s.accept i = s.begin (encode i)) := by
  unfold State.accept
  cases i.wf s.params <;> cases permitted i.op (s.tag i.slot) <;> simp

/-- Everything a command can do in a step that answers a next state: acceptance, waiting because another command runs,
waiting for the transport, the exceptional end, the next transaction, or the end (R100 to R104, R112). -/
theorem exec_cases {i : Instr} {s t : State} (h : exec i s = .next t) :
    (s.phase = .idle ∧ t = s.accept i) ∨
    (s.phase = .busy ∧ s.opreg ≠ encode i ∧ t = s.quiet) ∨
    (s.phase = .busy ∧ s.opreg = encode i ∧
      ∃ q, (planOf i s.params s.devAddr s.cur)[s.stepNo.toNat]? = some q ∧
        ((s.busIn = [] ∧ t = s.quiet) ∨
         (∃ e b rest, s.busIn = .err e b :: rest ∧
            t = (({ s with busIn := rest }).failEffect q b).raiseBusError e) ∨
         (∃ rest, s.busIn = .ok :: rest ∧ s.stepNo.toNat + 1 < planLength i.op s.params.mode ∧
            t = (({ s with busIn := rest }).transact q).advance) ∨
         (∃ rest, s.busIn = .ok :: rest ∧ ¬ s.stepNo.toNat + 1 < planLength i.op s.params.mode ∧
            t = (({ s with busIn := rest }).transact q).finish i.slot (commitTag i.op)
              (resultOf i.op s.params.mode i.slot)))) := by
  have hph : s.phase = .idle ∨ s.phase = .busy := by cases s.phase <;> simp
  rcases hph with hp | hp
  · rw [exec_idle i hp] at h
    cases h
    exact Or.inl ⟨hp, rfl⟩
  · by_cases ho : s.opreg = encode i
    · rw [exec_busy hp ho] at h
      obtain ⟨q, hq, hc⟩ := completeStep_cases h
      rw [planOf_length] at hc
      exact Or.inr (Or.inr ⟨hp, ho, q, hq, hc⟩)
    · rw [exec_busy_other hp ho] at h
      cases h
      exact Or.inr (Or.inl ⟨hp, ho, rfl⟩)

/-- Everything the engine's move can be: the host's request, or the command in `opreg` (R113). -/
theorem engineMove_cases {s t : State} (h : engineMove s = .next t) :
    (s.phase = .idle ∧ s.hostIn = [] ∧ t = s.quiet) ∨
    (∃ d rest, s.phase = .idle ∧ s.hostIn = .reset d :: rest ∧ t = ({ s with hostIn := rest }).resetEngine d) ∨
    (∃ w rest why, s.phase = .idle ∧ s.hostIn = .issue w :: rest ∧ decode s.params w = .illegal why ∧
      t = ({ s with hostIn := rest }).respond illegalResponse) ∨
    (∃ w rest i, s.phase = .idle ∧ s.hostIn = .issue w :: rest ∧ decode s.params w = .cmd i ∧
      t = ({ s with hostIn := rest }).accept i) ∨
    (∃ i, s.phase = .busy ∧ decode s.params s.opreg = .cmd i ∧ exec i s = .next t) := by
  unfold engineMove at h
  cases hph : s.phase with
  | idle =>
    simp only [hph, hostMove] at h
    cases hi : s.hostIn with
    | nil =>
      rw [hi] at h
      cases h
      exact Or.inl ⟨rfl, rfl, rfl⟩
    | cons r rest =>
      rw [hi] at h
      cases r with
      | reset d =>
        cases h
        exact Or.inr (Or.inl ⟨d, rest, rfl, rfl, rfl⟩)
      | issue w =>
        cases hd : decode s.params w with
        | illegal why =>
          simp only [hd] at h
          cases h
          exact Or.inr (Or.inr (Or.inl ⟨w, rest, why, rfl, rfl, hd, rfl⟩))
        | cmd i =>
          simp only [hd] at h
          rw [exec_idle i (by rfl)] at h
          cases h
          exact Or.inr (Or.inr (Or.inr (Or.inl ⟨w, rest, i, rfl, rfl, hd, rfl⟩)))
  | busy =>
    simp only [hph, transportMove] at h
    cases hd : decode s.params s.opreg with
    | illegal why =>
      rw [hd] at h
      cases h
    | cmd i =>
      rw [hd] at h
      exact Or.inr (Or.inr (Or.inr (Or.inr ⟨i, rfl, rfl, h⟩)))

/-- Everything a step can be: the environment's write, or, its turn passed, the engine's move (R9, R58). -/
theorem step_cases {s t : State} (h : step s = .next t) :
    (∃ d a v rest, s.envIn = .write d a v :: rest ∧ t = (({ s with envIn := rest }).setReg d a v).quiet) ∨
    engineMove { s with envIn := s.envIn.tail } = .next t := by
  unfold step agentsMove at h
  split at h
  · rename_i he
    have e : { s with envIn := s.envIn.tail } = s := by
      cases s
      simp only at he
      subst he
      rfl
    rw [e]
    exact Or.inr h
  · rename_i rest he
    rw [he]
    exact Or.inr h
  · rename_i d a v rest he
    cases h
    exact Or.inl ⟨d, a, v, rest, he, rfl⟩

/-- With no environment write in front, a step is the engine's move. -/
theorem step_engine {s : State} (h : ∀ d a v rest, s.envIn ≠ .write d a v :: rest) :
    step s = engineMove { s with envIn := s.envIn.tail } := by
  unfold step agentsMove
  split
  · rename_i he
    have e : { s with envIn := s.envIn.tail } = s := by
      cases s
      simp only at he
      subst he
      rfl
    rw [e]
  · rename_i rest he
    rw [he]
    rfl
  · rename_i d a v rest he
    exact absurd he (h d a v rest)

end Sys2Proof.Machine
end

