-- ==== Sys2Proof/Laws/PerInstr.lean ====
section
/-! SUPPORT. The statements made once per command: where the encoder puts each part of a command (R70). -/

namespace Sys2Proof.Laws

/-- The encoded word holds the opcode in bits 23:20, the slot in bits 19:16 and the operand in bits 15:0 (R70, R76). -/
def FieldsEncoded.Statement (i : Instr) : Prop :=
  (encode i).extractLsb' 20 4 = i.op.code ∧ (encode i).extractLsb' 16 4 = i.slot ∧
    (encode i).extractLsb' 0 16 = i.data

theorem FieldsEncoded.all (i : Instr) : FieldsEncoded.Statement i :=
  ⟨fieldOpc_encode i, fieldSel_encode i, fieldData_encode i⟩

theorem FieldsEncoded.cfgOut (s : Slot) : FieldsEncoded.Statement (.cfgOut s) := FieldsEncoded.all _
theorem FieldsEncoded.cfgIn (s : Slot) : FieldsEncoded.Statement (.cfgIn s) := FieldsEncoded.all _
theorem FieldsEncoded.write (s : Slot) (v : Word) : FieldsEncoded.Statement (.write s v) := FieldsEncoded.all _
theorem FieldsEncoded.read (s : Slot) : FieldsEncoded.Statement (.read s) := FieldsEncoded.all _
theorem FieldsEncoded.rdLatch (s : Slot) : FieldsEncoded.Statement (.rdLatch s) := FieldsEncoded.all _
theorem FieldsEncoded.setPull (s : Slot) (v : Word) : FieldsEncoded.Statement (.setPull s v) := FieldsEncoded.all _
theorem FieldsEncoded.intEn (s : Slot) (v : Word) : FieldsEncoded.Statement (.intEn s v) := FieldsEncoded.all _
theorem FieldsEncoded.intMode (s : Slot) (v : Word) : FieldsEncoded.Statement (.intMode s v) := FieldsEncoded.all _
theorem FieldsEncoded.intDef (s : Slot) (v : Word) : FieldsEncoded.Statement (.intDef s v) := FieldsEncoded.all _

end Sys2Proof.Laws
end

