-- ==== Sys2Proof/Laws/Plan.lean ====
section
/-! SUPPORT. The plans of R102 written out, and one lemma per way a command takes a step (R101, R103, R104): what a
proof about a whole command chains. -/

namespace Sys2Proof.Machine

theorem planLength_pos (o : Op) (m : Mode) : 0 < planLength o m ∧ planLength o m ≤ 4 := by
  cases o <;> cases m <;> decide

/-- `step` "ranges over 0..3 and never wraps" (R26). -/
theorem stepNo_succ {b : BitVec 2} {n : Nat} (h : b.toNat + 1 < n) (hn : n ≤ 4) : (b + 1).toNat = b.toNat + 1 := by
  have := b.isLt
  simp [BitVec.toNat_add]
  omega

/-- `rep(b, n)` of R10, bit by bit. -/
theorem rep_getLsbD (b : Bool) {n : Nat} (hn : n ≤ 16) (j : Nat) :
    (rep b n).getLsbD j = (decide (j < n) && b) := by
  cases b
  · simp [rep]
  · simp only [rep, if_true, BitVec.getLsbD_ofNat, Nat.testBit_two_pow_sub_one]
    by_cases h : j < n
    · simp [h, show j < 16 by omega]
    · simp [h]

/-- An operand built by `rep` fits the handle (R73). -/
theorem rep_fits (m : Mode) (b : Bool) : m.operandFits (rep b m.width) = true := by
  cases m <;> cases b <;> decide

/-- The `Port` and `Pin` plan of a masked update (R102). -/
theorem maskedPlan_byte (k : RegKind) (p : Params) (dev : DevAddr) (s : Slot) (val : Word) (cur : Latch)
    (h : p.mode ≠ .chip) :
    maskedPlan k p dev s val cur =
      [.rd dev (addr p.regs k (slotBank s)), .wr dev (addr p.regs k (slotBank s)) (newByte p.mode s val cur.lo)] := by
  unfold maskedPlan
  cases hm : p.mode <;> simp_all <;> rfl

/-- The `Chip` plan of a masked update (R102): both reads come before both writes. -/
theorem maskedPlan_word (k : RegKind) (p : Params) (dev : DevAddr) (s : Slot) (val : Word) (cur : Latch)
    (h : p.mode = .chip) :
    maskedPlan k p dev s val cur =
      [.rd dev (addr p.regs k .A), .rd dev (addr p.regs k .B),
       .wr dev (addr p.regs k .A) (lowByte (newWord .chip s val cur)),
       .wr dev (addr p.regs k .B) (highByte (newWord .chip s val cur))] := by
  simp only [maskedPlan, h]
  rfl

/-- `WRITE` on a `Port` or `Pin` handle is a masked update of `GPIO` (R125). -/
theorem planWrite_byte (p : Params) (dev : DevAddr) (s : Slot) (val : Word) (cur : Latch) (h : p.mode ≠ .chip) :
    planWrite p dev s val cur = maskedPlan .gpio p dev s val cur := by
  unfold planWrite
  cases hm : p.mode <;> simp_all

/-- `WRITE` on the `Chip` handle is the direct write (R102, R125). -/
theorem planWrite_word (p : Params) (dev : DevAddr) (s : Slot) (val : Word) (cur : Latch) (h : p.mode = .chip) :
    planWrite p dev s val cur =
      [.wr dev (addr p.regs .gpio .A) (lowByte val), .wr dev (addr p.regs .gpio .B) (highByte val)] := by
  simp only [planWrite, h]
  rfl

/-- The `Port` and `Pin` plan of a read command (R102). -/
theorem readPlan_byte (k : RegKind) (p : Params) (dev : DevAddr) (s : Slot) (h : p.mode ≠ .chip) :
    readPlan k p dev s = [.rd dev (addr p.regs k (slotBank s))] := by
  unfold readPlan
  cases hm : p.mode <;> simp_all <;> rfl

/-- The `Chip` plan of a read command (R102). -/
theorem readPlan_word (k : RegKind) (p : Params) (dev : DevAddr) (s : Slot) (h : p.mode = .chip) :
    readPlan k p dev s = [.rd dev (addr p.regs k .A), .rd dev (addr p.regs k .B)] := by
  simp only [readPlan, h]
  rfl

/-- The outstanding transaction of the command in `opreg` (R27). -/
theorem State.outstanding_eq {s : State} {i : Instr} (hp : s.phase = .busy) (ho : s.opreg = encode i)
    (hw : i.wf s.params = true) :
    s.outstanding = (planOf i s.params s.devAddr s.cur)[s.stepNo.toNat]? := by
  have hd : decode s.params (encode i) = .cmd i :=
    decode_cmd_iff.2 ⟨by rw [fieldOpc_encode, opOf_code], fieldSel_encode i, fieldData_encode i, hw⟩
  simp [State.outstanding, hp, ho, hd]

/-- A permitted command starts (R101). -/
theorem exec_start {i : Instr} {s : State} (hp : s.phase = .idle) (hw : i.wf s.params = true)
    (ht : s.tag i.slot = requiredTag i.op) : exec i s = .next (s.begin (encode i)) := by
  rw [exec_idle i hp]
  rcases s.accept_cases i with ⟨h1, _⟩ | ⟨_, h2, _⟩ | ⟨_, _, h3⟩
  · simp [hw] at h1
  · simp [permitted, ht] at h2
  · rw [h3]

/-- A transaction that is not the last completes `Ok` (R104). -/
theorem exec_more {i : Instr} {s : State} {q : Request} {rest : List Completion} (hp : s.phase = .busy)
    (ho : s.opreg = encode i) (hq : (planOf i s.params s.devAddr s.cur)[s.stepNo.toNat]? = some q)
    (hb : s.busIn = .ok :: rest) (hl : s.stepNo.toNat + 1 < planLength i.op s.params.mode) :
    exec i s = .next (({ s with busIn := rest }).transact q).advance := by
  rw [exec_busy hp ho]
  exact completeStep_more hq hb (by rwa [planOf_length])

/-- The last transaction completes `Ok` (R104). -/
theorem exec_last {i : Instr} {s : State} {q : Request} {rest : List Completion} (hp : s.phase = .busy)
    (ho : s.opreg = encode i) (hq : (planOf i s.params s.devAddr s.cur)[s.stepNo.toNat]? = some q)
    (hb : s.busIn = .ok :: rest) (hl : ¬ s.stepNo.toNat + 1 < planLength i.op s.params.mode) :
    exec i s = .next ((({ s with busIn := rest }).transact q).finish i.slot (commitTag i.op)
      (resultOf i.op s.params.mode i.slot)) := by
  rw [exec_busy hp ho]
  exact completeStep_last hq hb (by rwa [planOf_length])

/-- A transaction completes `Err(e)` (R103). -/
theorem exec_err {i : Instr} {s : State} {q : Request} {e : TErr} {b : Bool} {rest : List Completion}
    (hp : s.phase = .busy) (ho : s.opreg = encode i)
    (hq : (planOf i s.params s.devAddr s.cur)[s.stepNo.toNat]? = some q) (hb : s.busIn = .err e b :: rest) :
    exec i s = .next ((({ s with busIn := rest }).failEffect q b).raiseBusError e) := by
  rw [exec_busy hp ho]
  exact completeStep_err hq hb

/-- With no completion the command waits (R112). -/
theorem exec_wait {i : Instr} {s : State} {q : Request} (hp : s.phase = .busy) (ho : s.opreg = encode i)
    (hq : (planOf i s.params s.devAddr s.cur)[s.stepNo.toNat]? = some q) (hb : s.busIn = []) :
    exec i s = .next s.quiet := by
  rw [exec_busy hp ho]
  exact completeStep_wait hq hb

end Sys2Proof.Machine
end

