-- ==== Sys2Proof/Tests/Slice0.lean ====
section
/-! SUPPORT. Small tests: well-formedness, decoding, one or two steps or short commands per instruction, all with
results from 95_test_vectors.md, and one witness per statement with hypotheses. -/

namespace Sys2Proof.Tests

open Sys2Proof Sys2Proof.Machine

/-- An `Idle` engine for device `0x20` with tag `t` on slot `k`, the register bytes `m` (register address and byte, in
rising order) and the transport's answers `b`. -/
def box (p : Params) (k : Slot) (t : Tag) (m : List (Nat × Byte)) (b : List Completion) : State :=
  { State.reset.setTag k t with
    params := p, mem := m.map (fun c => (8192 + c.1, c.2)), busIn := b }

/-- The same engine executing the command `i`, transaction `n` outstanding, `CUR` as given. -/
def busyBox (p : Params) (i : Instr) (t : Tag) (n : BitVec 2) (c : Latch) (m : List (Nat × Byte))
    (b : List Completion) : State :=
  { box p i.slot t m b with phase := .busy, opreg := encode i, stepNo := n, cur := c }

/-- What `f` sees after `n` steps of the command `i`. -/
def after {α : Type} (n : Nat) (i : Instr) (s : State) (f : State → α) : Option α :=
  match execTimes n i s with
  | .next t => some (f t)
  | .fault _ => none
  | .refused _ => none

/-- What `f` sees after one step of the machine. -/
def stepped {α : Type} (s : State) (f : State → α) : Option α :=
  match step s with
  | .next t => some (f t)
  | .fault _ => none
  | .refused _ => none

/-- The log, the response word and the phase. -/
def seen (s : State) : List LogEntry × Option (BitVec 18) × Phase :=
  (s.log, s.output.map responseWord, s.phase)

def chipP : Params := defaultParams .chip
def portP : Params := defaultParams .port
def pinP : Params := defaultParams .pin
def noLatch (m : Mode) : Params := { defaultParams m with latchReadback := false }
def mockChip (m : Mode) : Params := { defaultParams m with chip := .coupled }
def e7 : Completion := .err { code := 7 } false

/-! ## Well-formedness: each check refuses an ill-formed command -/

theorem test_wf_good : (Instr.write 0 0xBBAA).wf chipP = true ∧ (Instr.setPull 8 0xFF).wf portP = true ∧
    (Instr.cfgIn 0xB).wf pinP = true := by decide
theorem test_wf_no_such_slot_chip : (Instr.cfgOut 8).wf chipP = false := by decide
theorem test_wf_no_such_slot_port : (Instr.cfgOut 1).wf portP = false := by decide
theorem test_wf_operand_too_wide_port : (Instr.write 0 0x100).wf portP = false := by decide
theorem test_wf_operand_too_wide_pin : (Instr.write 0 2).wf pinP = false := by decide
theorem test_wf_no_latch_readback : (Instr.rdLatch 0).wf (noLatch .pin) = false := by decide
theorem test_table_not_injective : ({ defaultRegs with olat := 0x12 } : RegTable).valid = false := by decide
theorem test_table_wraps : ({ defaultRegs with olat := 0xFF } : RegTable).valid = false := by decide
theorem test_memory_not_canonical : Memory.wf [(5, 1), (4, 1)] = false ∧ Memory.wf [(5, 0)] = false ∧
    Memory.wf [(32768, 1)] = false ∧ Memory.wf [(4, 1), (32767, 1)] = true := by decide

/-! ## Decoding: the words of V1 in 95_test_vectors.md, written out from R70 and R76 -/

theorem test_decode_cfg_out : decode portP 0b0001_1000_0000000000000000 = .cmd (.cfgOut 8) := by decide
theorem test_decode_cfg_in : decode pinP 0b0010_1011_0000000000000000 = .cmd (.cfgIn 0xB) := by decide
theorem test_decode_write : decode chipP 0b0011_0000_1011101110101010 = .cmd (.write 0 0xBBAA) := by decide
theorem test_decode_write_pin : decode pinP 0b0011_1111_0000000000000001 = .cmd (.write 0xF 1) := by decide
theorem test_decode_read : decode pinP 0b0100_1011_0000000000000000 = .cmd (.read 0xB) := by decide
theorem test_decode_rd_latch : decode pinP 0b0101_0000_0000000000000000 = .cmd (.rdLatch 0) := by decide
theorem test_decode_set_pull : decode pinP 0b0110_1011_0000000000000001 = .cmd (.setPull 0xB 1) := by decide
theorem test_decode_int_en : decode pinP 0b0111_0001_0000000000000001 = .cmd (.intEn 1 1) := by decide
theorem test_decode_int_mode : decode pinP 0b1000_0001_0000000000000001 = .cmd (.intMode 1 1) := by decide
theorem test_decode_int_def : decode chipP 0b1001_0000_1000000000000001 = .cmd (.intDef 0 0x8001) := by decide

/-- The words of V1 that are `ILLEGAL` in every mode. -/
theorem test_decode_illegal_everywhere :
    [chipP, portP, pinP].all (fun p =>
      [0x000000, 0xA00000, 0xF0FFFF, 0x100001, 0x200001, 0x400001, 0x500001].all (fun w =>
        match decode p w with
        | .illegal _ => true
        | .cmd _ => false)) = true := by decide

/-- The mode-dependent rows of V1: slots 8, 1 and 15, and operands of 2, 9 and 16 bits. -/
theorem test_decode_by_mode :
    decode chipP 0x180000 = .illegal .noSuchSlot ∧ decode portP 0x110000 = .illegal .noSuchSlot ∧
    decode pinP 0x1F0000 = .cmd (.cfgOut 0xF) ∧ decode portP 0x300002 = .cmd (.write 0 2) ∧
    decode pinP 0x300002 = .illegal .badData ∧ decode portP 0x300100 = .illegal .badData ∧
    decode chipP 0x30FFFF = .cmd (.write 0 0xFFFF) ∧ decode (noLatch .chip) 0x500000 = .illegal .noLatchReadback := by
  decide

theorem test_encode_words : encode (.setPull 0xB 1) = 0x6B0001 ∧ encode (.write 8 0xC3) = 0x3800C3 ∧
    encode (.intDef 0 0x8001) = 0x908001 := by decide

theorem test_table_word : decodeTableWord 24 0x2B0000 = some (.cfgIn 0xB) ∧ decodeTableWord 24 0x200001 = none := by
  decide

/-- A pseudo-instruction of R84: `SET_PULL B3, High` is `0x6B0001`. -/
theorem test_pseudo :
    (expandPseudo pinP (.setPullHigh (selOf (.pin .B 3)))).map encode = some 0x6B0001 ∧
    (expandPseudo portP (.setPullHigh (selOf (.port .A)))).map encode = some 0x6000FF ∧
    (expandPseudo pinP (.intModePrevious (selOf (.pin .A 1)))).map encode = some 0x810000 := by decide

/-- `WRITE s, High` and `WRITE s, Low` are rows in `Pin` mode only (R84); `WRITE B7, 1` is `0x3F0001` (V1). -/
theorem test_pseudo_write : (expandPseudo pinP (.writeHigh 0xF)).map encode = some 0x3F0001 ∧
    expandPseudo portP (.writeHigh 8) = none ∧ expandPseudo chipP (.writeLow 0) = none := by decide

/-! ## Commands: vectors of 95_test_vectors.md -/

/-- V3, first row. -/
theorem test_cfg_out_pin :
    after 3 (.cfgOut 0) (box pinP 0 .unconfigured [(0x00, 0xFF)] [.ok, .ok]) (fun t => (seen t, t.tag 0)) =
      some (([.rd 0x20 0x00 0xFF, .wr 0x20 0x00 0xFE], some 0x00000, .idle), .output) := by decide
/-- V8: `CFG_OUT chip` failing at its fourth transaction. -/
theorem test_cfg_out_chip_fails :
    after 5 (.cfgOut 0) (box chipP 0 .unconfigured [(0x00, 0xFF), (0x01, 0xFF)] [.ok, .ok, .ok, e7])
      (fun t => (t.output, t.tag 0, t.reg 0x20 0x00, t.reg 0x20 0x01)) =
      some (some { status := .busError, rdata := 0, err := some { code := 7 } }, .unconfigured, 0x00, 0xFF) := by
  decide
/-- S3, first row. -/
theorem test_cfg_in_pin :
    after 3 (.cfgIn 0xB) (box pinP 0xB .unconfigured [] [.ok, .ok]) (fun t => (seen t, t.tag 0xB, t.tag 0)) =
      some (([.rd 0x20 0x01 0x00, .wr 0x20 0x01 0x08], some 0x00000, .idle), .input, .unconfigured) := by decide
/-- V3: `CFG_IN chip`. -/
theorem test_cfg_in_chip :
    after 5 (.cfgIn 0) (box chipP 0 .unconfigured [] [.ok, .ok, .ok, .ok]) (fun t => (seen t, t.tag 0)) =
      some (([.rd 0x20 0x00 0x00, .rd 0x20 0x01 0x00, .wr 0x20 0x00 0xFF, .wr 0x20 0x01 0xFF], some 0x00000, .idle),
        .input) := by decide
/-- S1: endianness. -/
theorem test_write_chip :
    after 3 (.write 0 0xBBAA) (box chipP 0 .output [] [.ok, .ok]) seen =
      some ([.wr 0x20 0x12 0xAA, .wr 0x20 0x13 0xBB], some 0x00000, .idle) := by decide
/-- S7, second row: `Pin` on the mock chip. -/
theorem test_write_pin :
    after 3 (.write 0 1) (box (mockChip .pin) 0 .output [(0x12, 0xA4), (0x14, 0xA4)] [.ok, .ok])
      (fun t => (seen t, t.reg 0x20 0x14)) =
      some (([.rd 0x20 0x12 0xA4, .wr 0x20 0x12 0xA5], some 0x00000, .idle), 0xA5) := by decide
/-- V5: `READ B3`. -/
theorem test_read_pin :
    after 2 (.read 0xB) (box pinP 0xB .input [(0x13, 0xF7)] [.ok]) seen =
      some ([.rd 0x20 0x13 0xF7], some 0x00000, .idle) := by decide
/-- V5: `READ chip`. -/
theorem test_read_chip :
    after 3 (.read 0) (box chipP 0 .input [(0x12, 0x34), (0x13, 0x12)] [.ok, .ok]) seen =
      some ([.rd 0x20 0x12 0x34, .rd 0x20 0x13 0x12], some 0x01234, .idle) := by decide
/-- V4: `RD_LATCH A0`. -/
theorem test_rd_latch_pin :
    after 2 (.rdLatch 0) (box pinP 0 .output [(0x14, 0xA5)] [.ok]) seen =
      some ([.rd 0x20 0x14 0xA5], some 0x00001, .idle) := by decide
/-- P3, command 4. -/
theorem test_rd_latch_chip :
    after 3 (.rdLatch 0) (box chipP 0 .output [(0x14, 0x34), (0x15, 0xBB)] [.ok, .ok]) seen =
      some ([.rd 0x20 0x14 0x34, .rd 0x20 0x15 0xBB], some 0x0BB34, .idle) := by decide
/-- S3, second row. -/
theorem test_set_pull_pin :
    after 3 (.setPull 0xB 1) (box pinP 0xB .input [(0x0D, 0x41)] [.ok, .ok]) seen =
      some ([.rd 0x20 0x0D 0x41, .wr 0x20 0x0D 0x49], some 0x00000, .idle) := by decide
/-- V5: `SET_PULL chip, 0xA5C3`. -/
theorem test_set_pull_chip :
    after 5 (.setPull 0 0xA5C3) (box chipP 0 .input [] [.ok, .ok, .ok, .ok]) seen =
      some ([.rd 0x20 0x0C 0x00, .rd 0x20 0x0D 0x00, .wr 0x20 0x0C 0xC3, .wr 0x20 0x0D 0xA5], some 0x00000, .idle) := by
  decide
/-- V6: `INT_EN A1, 1`. -/
theorem test_int_en_pin :
    after 3 (.intEn 1 1) (box pinP 1 .input [(0x04, 0x80)] [.ok, .ok]) seen =
      some ([.rd 0x20 0x04 0x80, .wr 0x20 0x04 0x82], some 0x00000, .idle) := by decide
/-- V6: `INT_MODE A1, Previous`. -/
theorem test_int_mode_pin :
    after 3 (.intMode 1 0) (box pinP 1 .input [(0x08, 0xFF)] [.ok, .ok]) seen =
      some ([.rd 0x20 0x08 0xFF, .wr 0x20 0x08 0xFD], some 0x00000, .idle) := by decide
/-- V6: `INT_DEF B, 0x0F`. -/
theorem test_int_def_port :
    after 3 (.intDef 8 0x0F) (box portP 8 .input [(0x07, 0xAA)] [.ok, .ok]) seen =
      some ([.rd 0x20 0x07 0xAA, .wr 0x20 0x07 0x0F], some 0x00000, .idle) := by decide
/-- V8: `INT_DEF chip, 0xA55A` failing at its third transaction; nothing is written (the mock). -/
theorem test_int_def_chip_fails :
    after 4 (.intDef 0 0xA55A) (box chipP 0 .input [(0x06, 0x11), (0x07, 0x22)] [.ok, .ok, e7, .ok])
      (fun t => (seen t, t.reg 0x20 0x06, t.reg 0x20 0x07, t.issued)) =
      some (([.rd 0x20 0x06 0x11, .rd 0x20 0x07 0x22], some 0x10000, .idle), 0x11, 0x22, 3) := by decide

/-! ## The machine's steps -/

/-- The placed word runs as the first step after reset: `CFG_OUT A0` is accepted (V1, V2). -/
theorem test_step_first_instruction :
    stepped (State.reset.withFetchWord 24 0x100000) (fun t => (t.phase, t.opreg, t.outstanding)) =
      some (.busy, 0x100000, some (.rd 0x20 0x00)) := by decide
/-- V2, row `U`: `WRITE` on an unconfigured slot is `GATED`; nothing is issued. -/
theorem test_step_gated :
    stepped (State.reset.withFetchWord 24 0x300000) (fun t => (seen t, t.issued)) =
      some (([], some 0x20000, .idle), 0) := by decide
/-- V1, order of checks: `0x300002` in `Pin` mode is `ILLEGAL`, not `GATED`. -/
theorem test_step_illegal :
    stepped (State.reset.withFetchWord 24 0x300002) seen = some ([], some 0x30000, .idle) := by decide
/-- V9: a transaction the transport never completes. -/
theorem test_step_waits :
    stepped (busyBox pinP (.write 0 1) .output 0 ⟨0, 0⟩ [] []) (fun t => (t.phase, t.stepNo, t.output)) =
      some (.busy, 0, none) := by decide
/-- R9: the environment's turn writes its byte and emits nothing. -/
theorem test_step_environment :
    stepped { box pinP 0 .input [] [] with envIn := [.write 0x20 0x12 0x5A] } (fun t => (t.reg 0x20 0x12, t.output)) =
      some (0x5A, none) := by decide
/-- V9: `Reset(0x21)` on a configured engine. -/
theorem test_step_reset :
    stepped { box pinP 0 .input [(0x12, 0x5A)] [] with hostIn := [.reset 0x21] }
      (fun t => (t.devAddr, t.tag 0, t.phase, t.issued, t.reg 0x20 0x12)) =
      some (0x21, .unconfigured, .idle, 0, 0x5A) := by decide
/-- V7: the arithmetic of the masked update. -/
theorem test_masked_update : newByte .pin 3 1 0xA5 = 0xAD ∧ newByte .pin 15 0 0xFF = 0x7F ∧
    newByte .pin 1 0 0xA5 = 0xA5 ∧ newByte .port 0 0xC3 0x5A = 0xC3 ∧
    newWord .chip 0 0xA55A { lo := 0x34, hi := 0x12 } = 0xA55A := by decide

/-! ## Witnesses: states and operands that meet the hypotheses of the statements -/

theorem turn_empty {s : State} (h : s.envIn = []) : Claims.EngineTurn s := by
  intro d a v rest he
  rw [h] at he
  cases he

/-- A command on offer to an `Idle` engine. -/
def offered (p : Params) (k : Slot) (t : Tag) (w : CmdWord) : State :=
  { box p k t [] [.ok, .ok] with hostIn := [.issue w] }

/-- The default table with the polarities complemented: any parameters will do. -/
def oddP (m : Mode) : Params :=
  { defaultParams m with dirIn := false, pullHigh := false, intenOn := false, intcmpDefault := false }

theorem witness_EncodeThenDecode : (Instr.write 0 0xFFFF).wf chipP = true ∧ (Instr.write 8 0xFF).wf portP = true ∧
    (Instr.rdLatch 0xF).wf (oddP .pin) = true := by decide
theorem witness_DecodedWordIsItsEncoding : decode pinP 0x3F0001 = .cmd (.write 0xF 1) := by decide
theorem witness_ReservedOpcodesIllegal :
    fieldOpc 0x000000 ∈ [(0x0 : BitVec 4), 0xA, 0xB, 0xC, 0xD, 0xE, 0xF] ∧
    fieldOpc 0xFFFFFF ∈ [(0x0 : BitVec 4), 0xA, 0xB, 0xC, 0xD, 0xE, 0xF] ∧
    (noLatch .pin).latchReadback = false ∧ fieldOpc 0x500000 = 0x5 := by decide
/-- Both clauses on the mode, and a slot of each mode. -/
theorem witness_PseudoInstructionsAreCommands :
    pinP.mode = .pin ∧ portP.mode ≠ .pin ∧ chipP.mode ≠ .pin ∧ chipP.mode.slotExists 0 = true ∧
    portP.mode.slotExists 8 = true ∧ pinP.mode.slotExists 0xF = true := by decide
theorem witness_StepRunsIssuedCommand : Claims.EngineTurn (offered pinP 0 .output 0x300001) ∧
    (offered pinP 0 .output 0x300001).phase = .idle ∧
    (offered pinP 0 .output 0x300001).hostIn = [.issue (encode (.write 0 1))] ∧ (Instr.write 0 1).wf pinP = true :=
  ⟨turn_empty rfl, by decide, by decide, by decide⟩
theorem witness_StepContinuesBusyCommand : Claims.EngineTurn (busyBox pinP (.read 0xF) .input 0 ⟨0, 0⟩ [] [.ok]) ∧
    (busyBox pinP (.read 0xF) .input 0 ⟨0, 0⟩ [] [.ok]).opreg = encode (.read 0xF) ∧
    (Instr.read 0xF).wf pinP = true :=
  ⟨turn_empty rfl, by decide, by decide⟩
/-- The three clauses of acceptance: an illegal word, a gated command, a permitted command. -/
theorem witness_AcceptanceOfAnyWord : (∀ w, Claims.EngineTurn (offered portP 8 .input w)) ∧
    decode portP 0x480001 = .illegal .badData ∧ decode portP 0x180000 = .cmd (.cfgOut 8) ∧
    (offered portP 8 .input 0x180000).tag 8 ≠ requiredTag .cfgOut ∧ decode portP 0x480000 = .cmd (.read 8) ∧
    (offered portP 8 .input 0x480000).tag 8 = requiredTag .read :=
  ⟨fun _ => turn_empty rfl, by decide, by decide, by decide, by decide, by decide⟩
theorem witness_IllegalWordAnswered : Claims.EngineTurn (offered chipP 0 .output 0x480000) ∧
    (offered chipP 0 .output 0x480000).phase = .idle ∧
    (offered chipP 0 .output 0x480000).hostIn = [.issue 0x480000] ∧ decode chipP 0x480000 = .illegal .noSuchSlot :=
  ⟨turn_empty rfl, by decide, by decide, by decide⟩
theorem witness_GatedCommandAnswered : (box pinP 0 .input [] []).phase = .idle ∧ (Instr.cfgIn 0).wf pinP = true ∧
    permitted .cfgIn ((box pinP 0 .input [] []).tag 0) = false := by decide
/-- Both directions of the second clause of the gate's table. -/
theorem witness_GateTable : permitted .cfgIn ((box pinP 0 .input [] []).tag 0) = false ∧
    permitted .read ((box pinP 0 .input [] []).tag 0) = true ∧ (Instr.read 0).wf pinP = true := by decide
theorem witness_IllegalBeforeGated : (box pinP 0 .unconfigured [] []).phase = .idle ∧
    (Instr.write 0 2).wf pinP = false := by decide

/-- The hypotheses of a whole command on a `Port` or `Pin` handle, or on the `Chip` handle. -/
def runnable (i : Instr) (need : Tag) (s : State) (n : Nat) : Bool :=
  s.mem.wf && s.params.regs.valid && decide (s.phase = .idle) && i.wf s.params && decide (s.tag i.slot = need) &&
    decide (s.busIn.take n = List.replicate n .ok ∧ n ≤ s.busIn.length)

theorem witness_ConfigureByteRun :
    runnable (.cfgOut 8) .unconfigured (box portP 8 .unconfigured [(0x01, 0x5A)] [.ok, .ok]) 2 = true ∧
    runnable (.cfgIn 0xF) .unconfigured (box (oddP .pin) 0xF .unconfigured [(0x01, 0xFF)] [.ok, .ok, .ok]) 2 = true := by
  decide
theorem witness_ConfigureWordRun :
    runnable (.cfgOut 0) .unconfigured (box chipP 0 .unconfigured [(0x00, 0x12), (0x01, 0x34)] [.ok, .ok, .ok, .ok]) 4 =
      true ∧
    runnable (.cfgIn 0) .unconfigured (box chipP 0 .unconfigured [] [.ok, .ok, .ok, .ok]) 4 = true := by decide
theorem witness_WriteByteRun : runnable (.write 8 0xFF) .output (box portP 8 .output [] [.ok, .ok]) 2 = true ∧
    runnable (.write 0xF 1) .output (box (mockChip .pin) 0xF .output [(0x13, 0x7F)] [.ok, .ok]) 2 = true := by decide
theorem witness_WriteWordRun : runnable (.write 0 0xFFFF) .output (box (mockChip .chip) 0 .output [] [.ok, .ok]) 2 = true ∧
    coupledLatch (mockChip .chip) (addr defaultRegs .gpio .A) = some (addr defaultRegs .olat .A) ∧
    coupledLatch (mockChip .chip) (addr defaultRegs .gpio .B) = some (addr defaultRegs .olat .B) := by decide
theorem witness_ReadCommandsByteRun : runnable (.read 8) .input (box portP 8 .input [(0x13, 0x80)] [.ok]) 1 = true ∧
    runnable (.rdLatch 0xF) .output (box pinP 0xF .output [(0x15, 0x80)] [.ok]) 1 = true := by decide
theorem witness_ReadCommandsWordRun :
    runnable (.read 0) .input (box chipP 0 .input [(0x12, 0x34)] [.ok, .ok]) 2 = true ∧
    runnable (.rdLatch 0) .output (box chipP 0 .output [(0x15, 0x34)] [.ok, .ok]) 2 = true := by decide
theorem witness_SetPullByteRun : runnable (.setPull 0 0xFF) .input (box portP 0 .input [] [.ok, .ok]) 2 = true ∧
    runnable (.setPull 7 1) .input (box pinP 7 .input [(0x0C, 0x7F)] [.ok, .ok]) 2 = true := by decide
theorem witness_SetPullWordRun :
    runnable (.setPull 0 0xFFFF) .input (box chipP 0 .input [] [.ok, .ok, .ok, .ok]) 4 = true := by decide
theorem witness_InterruptByteRun : runnable (.intEn 8 0xFF) .input (box portP 8 .input [] [.ok, .ok]) 2 = true ∧
    runnable (.intMode 0xF 1) .input (box pinP 0xF .input [] [.ok, .ok]) 2 = true ∧
    runnable (.intDef 0 1) .input (box pinP 0 .input [] [.ok, .ok]) 2 = true := by decide
theorem witness_InterruptWordRun :
    runnable (.intEn 0 0x8001) .input (box chipP 0 .input [] [.ok, .ok, .ok, .ok]) 4 = true ∧
    runnable (.intMode 0 0xFFFF) .input (box chipP 0 .input [] [.ok, .ok, .ok, .ok]) 4 = true ∧
    runnable (.intDef 0 0) .input (box chipP 0 .input [] [.ok, .ok, .ok, .ok]) 4 = true := by decide

/-- A plan that goes on (the second read of a `Chip` masked update) and one that ends (its second write, and the read
of a `Pin` handle). -/
theorem witness_TransactionSucceeds :
    (busyBox chipP (.setPull 0 0xA5C3) .input 1 ⟨0x11, 0⟩ [(0x0D, 0x22)] [.ok]).outstanding = some (.rd 0x20 0x0D) ∧
    (busyBox chipP (.setPull 0 0xA5C3) .input 3 ⟨0x11, 0x22⟩ [] [.ok]).outstanding = some (.wr 0x20 0x0D 0xA5) ∧
    (busyBox pinP (.read 0xF) .input 0 ⟨0, 0⟩ [] [.ok]).outstanding = some (.rd 0x20 0x13) ∧
    (Instr.setPull 0 0xA5C3).wf chipP = true ∧ (Instr.read 0xF).wf pinP = true := by decide
theorem witness_TransactionFails :
    (busyBox chipP (.setPull 0 0xA5C3) .input 3 ⟨0, 0⟩ [] [e7]).outstanding = some (.wr 0x20 0x0D 0xA5) ∧
    (busyBox chipP (.setPull 0 0xA5C3) .input 3 ⟨0, 0⟩ [] [e7]).busIn = [.err { code := 7 } false] ∧
    (Instr.setPull 0 0xA5C3).wf chipP = true := by decide
theorem witness_FailedWriteIsOldOrNew :
    (busyBox pinP (.write 0 1) .output 1 ⟨0xA4, 0⟩ [(0x12, 0xA4)] [.err ⟨0⟩ true]).outstanding =
      some (.wr 0x20 0x12 0xA5) ∧
    (busyBox pinP (.write 0 1) .output 1 ⟨0xA4, 0⟩ [(0x12, 0xA4)] [.err ⟨0⟩ true]).mem.wf = true ∧
    after 1 (.write 0 1) (busyBox pinP (.write 0 1) .output 1 ⟨0xA4, 0⟩ [(0x12, 0xA4)] [.err ⟨0⟩ true])
      (fun t => t.reg 0x20 0x12) = some 0xA5 ∧
    after 1 (.write 0 1) (busyBox pinP (.write 0 1) .output 1 ⟨0xA4, 0⟩ [(0x12, 0xA4)] [.err ⟨0⟩ false])
      (fun t => t.reg 0x20 0x12) = some 0xA4 := by decide
theorem witness_FailedReadChangesNoRegister :
    (busyBox pinP (.write 0 1) .output 0 ⟨0, 0⟩ [] [e7]).outstanding = some (.rd 0x20 0x12) ∧
    (Instr.write 0 1).wf pinP = true := by decide
theorem witness_FailedConfigurationCanBeReissued :
    (busyBox pinP (.cfgIn 0xB) .unconfigured 1 ⟨0, 0⟩ [] [e7]).outstanding = some (.wr 0x20 0x01 0x08) ∧
    (busyBox pinP (.cfgIn 0xB) .unconfigured 1 ⟨0, 0⟩ [] [e7]).tag 0xB = .unconfigured ∧
    (Instr.cfgIn 0xB).wf pinP = true := by decide
theorem witness_ChipWriteCanTear :
    runnable (.write 0 0xA55A) .output (box chipP 0 .output [(0x12, 0x11), (0x13, 0x22)] [.ok, e7]) 1 = true ∧
    (box chipP 0 .output [(0x12, 0x11), (0x13, 0x22)] [.ok, e7]).busIn = [.ok, .err { code := 7 } false] := by decide
/-- V9, lost update: the hypotheses hold, and the other agent's bit 7 is lost. -/
theorem witness_LostUpdate :
    (busyBox pinP (.setPull 0xB 1) .input 0 ⟨0, 0⟩ [(0x0D, 0x41)] [.ok, .ok]).mem.wf = true ∧
    Claims.maskedKind (.setPull 0xB 1) pinP = some (.pull, 1) ∧ (Instr.setPull 0xB 1).wf pinP = true ∧
    after 1 (.setPull 0xB 1) (busyBox pinP (.setPull 0xB 1) .input 0 ⟨0, 0⟩ [(0x0D, 0x41)] [.ok, .ok])
      (fun t => after 1 (.setPull 0xB 1) (t.setReg 0x20 0x0D 0xC1) (fun u => u.reg 0x20 0x0D)) = some (some 0x49) := by
  decide
/-- V9, tearing. -/
theorem witness_ChipReadCanTear :
    (busyBox chipP (.read 0) .input 0 ⟨0, 0⟩ [(0x12, 0xFF)] [.ok, .ok]).mem.wf = true ∧ (Instr.read 0).wf chipP = true ∧
    after 1 (.read 0) (busyBox chipP (.read 0) .input 0 ⟨0, 0⟩ [(0x12, 0xFF)] [.ok, .ok])
      (fun t => after 1 (.read 0) ((t.setReg 0x20 0x12 0x00).setReg 0x20 0x13 0x01) (fun u => u.output.map responseWord)) =
      some (some (some 0x001FF)) := by decide
theorem witness_LatchReadsBackWrite :
    runnable (.write 8 0xC3) .output (box (mockChip .port) 8 .output [] [.ok, .ok, .ok]) 3 = true ∧
    runnable (.write 0xF 0) .output (box (mockChip .pin) 0xF .output [(0x13, 0xFF)] [.ok, .ok, .ok]) 3 = true ∧
    runnable (.write 0 0xFFFF) .output (box (mockChip .chip) 0 .output [] [.ok, .ok, .ok, .ok]) 4 = true ∧
    (Instr.rdLatch 8).wf (mockChip .port) = true := by decide

/-- A busy engine with a host request waiting and one completion to come. -/
def waiting : State :=
  { busyBox pinP (.write 0 1) .output 1 ⟨0xA4, 0⟩ [(0x12, 0xA4)] [.ok] with hostIn := [.issue 0x300000] }

theorem absent_pin (s : State) (h : s.params.mode = .pin) : s.AbsentSlotsUnconfigured := by
  intro k hk
  rw [h] at hk
  cases hk

theorem witness_BusyAcceptsNothing : waiting.phase = .busy ∧ waiting.opreg ≠ encode (.write 0 0) ∧
    stepped waiting (fun t => t.hostIn) = some [.issue 0x300000] := by decide
theorem witness_UnansweredTransactionHangs : ({ waiting with busIn := [] } : State).Sound ∧ waiting.phase = .busy ∧
    stepped waiting (fun t => t.phase) = some .idle :=
  ⟨⟨by decide, by decide, absent_pin _ rfl, by decide⟩, by decide, by decide⟩
theorem witness_ResetStep : Claims.EngineTurn { box pinP 0 .input [] [] with hostIn := [.reset 0x7F] } ∧
    ({ box pinP 0 .input [] [] with hostIn := [.reset 0x7F] } : State).phase = .idle :=
  ⟨turn_empty rfl, by decide⟩
theorem witness_EveryStepKeepsSound : waiting.Sound ∧ stepped waiting (fun t => t.mem) = some [(8210, 0xA5)] :=
  ⟨⟨by decide, by decide, absent_pin _ rfl, by decide⟩, by decide⟩
theorem witness_SoundStatesNeverStop : State.reset.Sound :=
  ⟨by decide, by decide, absent_pin _ rfl, by decide⟩
/-- The three ways of the one-way tag: kept, reset, configured (as `Output`, and as `Input`). -/
theorem witness_TagsAreOneWay :
    stepped waiting (fun t => t.tag 0) = some .output ∧
    stepped { box pinP 0 .input [] [] with hostIn := [.reset 1] } (fun t => t.tag 0) = some .unconfigured ∧
    stepped (busyBox pinP (.cfgOut 0) .unconfigured 1 ⟨0, 0⟩ [] [.ok]) (fun t => t.tag 0) = some .output ∧
    stepped (busyBox pinP (.cfgIn 0) .unconfigured 1 ⟨0, 0⟩ [] [.ok]) (fun t => t.tag 0) = some .input ∧
    (busyBox pinP (.cfgOut 0) .unconfigured 1 ⟨0, 0⟩ [] [.ok]).busyCoherent = true := by decide
theorem witness_DeviceAddressNeverMutated : waiting.outstanding = some (.wr 0x20 0x12 0xA5) ∧
    after 1 (.write 0 1) waiting (fun t => t.devAddr) = some 0x20 ∧
    stepped { box pinP 0 .input [] [] with hostIn := [.reset 1] } (fun t => t.devAddr) = some 1 := by decide
theorem witness_ParametersNeverChange : stepped waiting (fun t => decide (t.params = waiting.params)) = some true := by
  decide
/-- The three clauses: a register no step touches, the environment's write, the engine's write. -/
theorem witness_RegistersChangeOnlyByWrites : waiting.mem.wf = true ∧
    stepped waiting (fun t => (t.reg 0x20 0x13, t.reg 0x20 0x12)) = some (0x00, 0xA5) ∧
    stepped { waiting with envIn := [.write 0x20 0x13 0xFF] } (fun t => t.reg 0x20 0x13) = some 0xFF := by decide
theorem witness_LogRecordsCompletedTransactions :
    stepped waiting (fun t => t.log) = some [.wr 0x20 0x12 0xA5] ∧
    stepped (busyBox pinP (.read 0) .input 0 ⟨0, 0⟩ [(0x12, 0xFE)] [.ok]) (fun t => t.log) =
      some [.rd 0x20 0x12 0xFE] ∧
    stepped { waiting with busIn := [e7] } (fun t => t.log) = some [] := by decide
theorem witness_UnusedKindsNeverAccessed : waiting.params.regs.valid = true ∧
    waiting.outstanding = some (.wr 0x20 0x12 0xA5) := by decide
theorem witness_HandleStaysInItsBank : waiting.params.mode ≠ .chip ∧
    waiting.outstanding = some (.wr 0x20 0x12 0xA5) := by decide
/-- One step for each status. -/
theorem witness_ResponseShape :
    stepped waiting (fun t => t.output) = some (some { status := .ok, rdata := 0, err := none }) ∧
    stepped { waiting with busIn := [e7] } (fun t => t.output) =
      some (some { status := .busError, rdata := 0, err := some { code := 7 } }) ∧
    stepped (offered pinP 0 .input 0x300000) (fun t => t.output) =
      some (some { status := .gated, rdata := 0, err := none }) ∧
    stepped (offered pinP 0 .input 0x000000) (fun t => t.output) =
      some (some { status := .illegal, rdata := 0, err := none }) := by decide
theorem witness_RegisterDecoderInjective : ({ defaultRegs with olat := 0xFE } : RegTable).valid = true := by decide
/-- A row of the table, and the three ways of having nothing for the engine. -/
theorem witness_StepFollowsTransitionTable : waiting.Sound ∧ Claims.EngineTurn waiting ∧
    Claims.Offered waiting .completeWrite ∧ stepped waiting (fun t => t.phase) = some .idle ∧
    Claims.NothingForEngine { waiting with envIn := [.write 0x20 0x13 0xFF] } ∧
    Claims.NothingForEngine { waiting with busIn := [] } ∧ Claims.NothingForEngine State.reset :=
  ⟨⟨by decide, by decide, absent_pin _ rfl, by decide⟩, turn_empty rfl, ⟨[], rfl⟩, by decide,
    Or.inl ⟨_, _, _, _, rfl⟩, Or.inr ⟨turn_empty rfl, Or.inr ⟨rfl, rfl⟩⟩, Or.inr ⟨turn_empty rfl, Or.inl ⟨rfl, rfl⟩⟩⟩

end Sys2Proof.Tests
end

/-! PROOFS. 00_scope.md: every transaction carries `DEV_ADDR`, which Reset alone changes (R7, R21), and no step changes
the parameters (R6). -/

namespace Sys2Proof.Machine

/-! ## The device address of a transaction -/

theorem requestDev_of_mem_maskedPlan {k : RegKind} {p : Params} {dev : DevAddr} {s : Slot} {val : Word} {cur : Latch}
    {q : Request} (h : q ∈ maskedPlan k p dev s val cur) : Claims.requestDev q = dev := by
  by_cases hm : p.mode = .chip
  · rw [maskedPlan_word k p dev s val cur hm] at h
    simp only [List.mem_cons, List.not_mem_nil, or_false] at h
    rcases h with rfl | rfl | rfl | rfl <;> rfl
  · rw [maskedPlan_byte k p dev s val cur hm] at h
    simp only [List.mem_cons, List.not_mem_nil, or_false] at h
    rcases h with rfl | rfl <;> rfl

theorem requestDev_of_mem_readPlan {k : RegKind} {p : Params} {dev : DevAddr} {s : Slot} {q : Request}
    (h : q ∈ readPlan k p dev s) : Claims.requestDev q = dev := by
  by_cases hm : p.mode = .chip
  · rw [readPlan_word k p dev s hm] at h
    simp only [List.mem_cons, List.not_mem_nil, or_false] at h
    rcases h with rfl | rfl <;> rfl
  · rw [readPlan_byte k p dev s hm, List.mem_singleton] at h
    rw [h]
    rfl

theorem requestDev_of_mem_planWrite {p : Params} {dev : DevAddr} {s : Slot} {val : Word} {cur : Latch} {q : Request}
    (h : q ∈ planWrite p dev s val cur) : Claims.requestDev q = dev := by
  by_cases hm : p.mode = .chip
  · rw [planWrite_word p dev s val cur hm] at h
    simp only [List.mem_cons, List.not_mem_nil, or_false] at h
    rcases h with rfl | rfl <;> rfl
  · rw [planWrite_byte p dev s val cur hm] at h
    exact requestDev_of_mem_maskedPlan h

/-- Every transaction of every command's plan goes to the device the plan was made for (R102). -/
theorem requestDev_of_mem_planOf {i : Instr} {p : Params} {dev : DevAddr} {cur : Latch} {q : Request}
    (h : q ∈ planOf i p dev cur) : Claims.requestDev q = dev := by
  cases i with
  | write _ _ => exact requestDev_of_mem_planWrite h
  | read _ | rdLatch _ => exact requestDev_of_mem_readPlan h
  | cfgOut _ | cfgIn _ | setPull _ _ | intEn _ _ | intMode _ _ | intDef _ _ => exact requestDev_of_mem_maskedPlan h

/-- An outstanding transaction is the one at `step` in the plan of the command in `opreg` (R27). -/
theorem State.outstanding_cases {s : State} {q : Request} (h : s.outstanding = some q) :
    s.phase = .busy ∧ ∃ i, decode s.params s.opreg = .cmd i ∧
      (planOf i s.params s.devAddr s.cur)[s.stepNo.toNat]? = some q := by
  unfold State.outstanding at h
  split at h
  · cases h
  · rename_i hp
    split at h
    · cases h
    · rename_i i hd
      exact ⟨hp, i, hd, h⟩

theorem State.requestDev_outstanding {s : State} {q : Request} (h : s.outstanding = some q) :
    Claims.requestDev q = s.devAddr := by
  obtain ⟨-, i, -, hq⟩ := s.outstanding_cases h
  exact requestDev_of_mem_planOf (List.mem_of_getElem? hq)

/-! ## What a command, and then a step, leaves of the parameters and `DEV_ADDR` -/

@[simp] theorem State.accept_params (s : State) (i : Instr) : (s.accept i).params = s.params := by
  rcases s.accept_cases i with ⟨-, e⟩ | ⟨-, -, e⟩ | ⟨-, -, e⟩ <;> simp [e]

@[simp] theorem State.accept_devAddr (s : State) (i : Instr) : (s.accept i).devAddr = s.devAddr := by
  rcases s.accept_cases i with ⟨-, e⟩ | ⟨-, -, e⟩ | ⟨-, -, e⟩ <;> simp [e]

theorem exec_params_devAddr {i : Instr} {s t : State} (h : exec i s = .next t) :
    t.params = s.params ∧ t.devAddr = s.devAddr := by
  rcases exec_cases h with ⟨-, rfl⟩ | ⟨-, -, rfl⟩ | ⟨-, -, q, -, hc⟩
  · simp
  · simp
  · rcases hc with ⟨-, rfl⟩ | ⟨e, b, rest, -, rfl⟩ | ⟨rest, -, -, rfl⟩ | ⟨rest, -, -, rfl⟩ <;> simp

/-- The engine's move keeps the parameters, and `DEV_ADDR` unless it is the Reset step. -/
theorem engineMove_params_devAddr {s t : State} (h : engineMove s = .next t) :
    t.params = s.params ∧ (t.devAddr = s.devAddr ∨
      (s.phase = .idle ∧ ∃ dev rest, s.hostIn = .reset dev :: rest ∧ t.devAddr = dev)) := by
  rcases engineMove_cases h with ⟨-, -, rfl⟩ | ⟨dev, rest, hp, hi, rfl⟩ | ⟨w, rest, why, -, -, -, rfl⟩ |
    ⟨w, rest, i, -, -, -, rfl⟩ | ⟨i, -, -, hx⟩
  · simp
  · exact ⟨rfl, Or.inr ⟨hp, dev, rest, hi, rfl⟩⟩
  · simp
  · simp
  · obtain ⟨hpar, hdev⟩ := exec_params_devAddr hx
    exact ⟨hpar, Or.inl hdev⟩

/-- A step keeps the parameters, and `DEV_ADDR` unless it is the Reset step. -/
theorem step_params_devAddr {s t : State} (h : step s = .next t) :
    t.params = s.params ∧ (t.devAddr = s.devAddr ∨
      (s.phase = .idle ∧ ∃ dev rest, s.hostIn = .reset dev :: rest ∧ t.devAddr = dev)) := by
  rcases step_cases h with ⟨d, a, v, rest, -, rfl⟩ | hm
  · simp
  · exact engineMove_params_devAddr (s := { s with envIn := s.envIn.tail }) hm

/-- Settles O41: a plan names the device it was made for, and of the moves only Reset writes `DEV_ADDR`. -/
theorem deviceAddressNeverMutated : Obligations.DeviceAddressNeverMutated :=
  ⟨fun _ _ h => State.requestDev_outstanding h, fun _ _ _ h => (exec_params_devAddr h).right,
    fun _ _ h => (step_params_devAddr h).right⟩

/-- Settles O42: every move, Reset included, keeps the parameters. -/
theorem parametersNeverChange : Obligations.ParametersNeverChange :=
  fun _ _ h => (step_params_devAddr h).left

end Sys2Proof.Machine

/-! PROOFS. 10_state.md: what every step keeps of the state (O37), what it does to the tags (O40), the log (O44) and
the response (O47), how `Busy` continues (O8), and the state after reset (O36). -/

namespace Sys2Proof

/-- The word of a well-formed command decodes to it (R70, R75). -/
theorem decode_encode {p : Params} {i : Instr} (h : i.wf p = true) : decode p (encode i) = .cmd i :=
  decode_cmd_iff.2 ⟨by rw [fieldOpc_encode, opOf_code], fieldSel_encode i, fieldData_encode i, h⟩

theorem wf_of_decode {p : Params} {w : CmdWord} {i : Instr} (h : decode p w = .cmd i) : i.wf p = true := by
  obtain ⟨-, -, -, hw⟩ := decode_cmd_iff.1 h
  exact hw

/-- A word that decodes is the encoding of its command (R70). -/
theorem eq_encode_of_decode {p : Params} {w : CmdWord} {i : Instr} (h : decode p w = .cmd i) : w = encode i := by
  obtain ⟨hopc, hsel, hdata, -⟩ := decode_cmd_iff.1 h
  rw [← word_fields w, ← code_of_opOf hopc, hsel, hdata]
  rfl

theorem Instr.slotExists_of_wf {p : Params} {i : Instr} (h : i.wf p = true) : p.mode.slotExists i.slot = true := by
  simp only [Instr.wf, Bool.and_eq_true] at h
  exact h.left.right

end Sys2Proof

namespace Sys2Proof.Machine

/-! ## What the engine's move can be -/

/-- The command in `opreg` is `i`, and `q` is its outstanding transaction (R26, R27). -/
structure State.Running (s : State) (i : Instr) (q : Request) : Prop where
  busy : s.phase = .busy
  decodes : decode s.params s.opreg = .cmd i
  outstanding : s.outstanding = some q

theorem State.Running.opreg_eq {s : State} {i : Instr} {q : Request} (h : s.Running i q) : s.opreg = encode i :=
  eq_encode_of_decode h.decodes

/-- The engine's moves, with all that holds when each is made: waiting for the host or the transport (log entry 11),
the Reset step (R190), the two refusals (R162, R163), acceptance (R101), and the three ways a transaction completes
(R103, R104). -/
inductive EngineStep (s : State) : State → Prop where
  | wait (nothing : (s.phase = .idle ∧ s.hostIn = []) ∨ (s.phase = .busy ∧ s.busIn = [])) : EngineStep s s.quiet
  | reset (dev : DevAddr) (rest : List HostReq) (idle : s.phase = .idle) (request : s.hostIn = .reset dev :: rest) :
      EngineStep s (({ s with hostIn := rest }).resetEngine dev)
  | illegal (w : CmdWord) (rest : List HostReq) (why : Illegal) (idle : s.phase = .idle)
      (request : s.hostIn = .issue w :: rest) (undecoded : decode s.params w = .illegal why) :
      EngineStep s (({ s with hostIn := rest }).respond illegalResponse)
  | gated (w : CmdWord) (rest : List HostReq) (i : Instr) (idle : s.phase = .idle)
      (request : s.hostIn = .issue w :: rest) (decodes : decode s.params w = .cmd i)
      (refused : permitted i.op (s.tag i.slot) = false) :
      EngineStep s (({ s with hostIn := rest }).respond gatedResponse)
  | start (w : CmdWord) (rest : List HostReq) (i : Instr) (idle : s.phase = .idle)
      (request : s.hostIn = .issue w :: rest) (decodes : decode s.params w = .cmd i)
      (allowed : permitted i.op (s.tag i.slot) = true) :
      EngineStep s (({ s with hostIn := rest }).begin (encode i))
  | fail (i : Instr) (q : Request) (e : TErr) (landed : Bool) (rest : List Completion) (running : s.Running i q)
      (answer : s.busIn = .err e landed :: rest) :
      EngineStep s ((({ s with busIn := rest }).failEffect q landed).raiseBusError e)
  | more (i : Instr) (q : Request) (rest : List Completion) (running : s.Running i q) (answer : s.busIn = .ok :: rest)
      (notLast : s.stepNo.toNat + 1 < planLength i.op s.params.mode) :
      EngineStep s (({ s with busIn := rest }).transact q).advance
  | last (i : Instr) (q : Request) (rest : List Completion) (running : s.Running i q) (answer : s.busIn = .ok :: rest)
      (isLast : ¬ s.stepNo.toNat + 1 < planLength i.op s.params.mode) :
      EngineStep s ((({ s with busIn := rest }).transact q).finish i.slot (commitTag i.op)
        (resultOf i.op s.params.mode i.slot))

/-- A decoded request of the host is gated or starts (R101). -/
theorem EngineStep.of_accept {s : State} {w : CmdWord} {i : Instr} {rest : List HostReq} (hp : s.phase = .idle)
    (hr : s.hostIn = .issue w :: rest) (hd : decode s.params w = .cmd i) :
    EngineStep s (({ s with hostIn := rest }).accept i) := by
  rcases ({ s with hostIn := rest }).accept_cases i with ⟨hw, -⟩ | ⟨-, ha, e⟩ | ⟨-, ha, e⟩
  · exact absurd (wf_of_decode hd) (by simpa using hw)
  · rw [e]
    exact .gated w rest i hp hr hd ha
  · rw [e]
    exact .start w rest i hp hr hd ha

/-- The command in `opreg` waits, fails, goes on or ends (R103, R104, R112). -/
theorem EngineStep.of_exec {s t : State} {i : Instr} (hp : s.phase = .busy) (hd : decode s.params s.opreg = .cmd i)
    (h : exec i s = .next t) : EngineStep s t := by
  have ho : s.opreg = encode i := eq_encode_of_decode hd
  rcases exec_cases h with ⟨hi, -⟩ | ⟨-, hne, -⟩ | ⟨-, -, q, hq, hc⟩
  · rw [hp] at hi
    cases hi
  · exact absurd ho hne
  · have hrun : s.Running i q := ⟨hp, hd, by rw [State.outstanding_eq hp ho (wf_of_decode hd), hq]⟩
    rcases hc with ⟨hb, rfl⟩ | ⟨e, landed, rest, hb, rfl⟩ | ⟨rest, hb, hl, rfl⟩ | ⟨rest, hb, hl, rfl⟩
    · exact .wait (Or.inr ⟨hp, hb⟩)
    · exact .fail i q e landed rest hrun hb
    · exact .more i q rest hrun hb hl
    · exact .last i q rest hrun hb hl

theorem EngineStep.of_engineMove {s t : State} (h : engineMove s = .next t) : EngineStep s t := by
  rcases engineMove_cases h with ⟨hp, hr, rfl⟩ | ⟨dev, rest, hp, hr, rfl⟩ | ⟨w, rest, why, hp, hr, hd, rfl⟩ |
    ⟨w, rest, i, hp, hr, hd, rfl⟩ | ⟨i, hp, hd, hx⟩
  · exact .wait (Or.inl ⟨hp, hr⟩)
  · exact .reset dev rest hp hr
  · exact .illegal w rest why hp hr hd
  · exact .of_accept hp hr hd
  · exact .of_exec hp hd hx

/-- Every step is the environment's write or, its turn passed, a move of the engine (R9, R58). -/
theorem step_engineStep {s t : State} (h : step s = .next t) :
    (∃ d a v rest, s.envIn = .write d a v :: rest ∧ t = (({ s with envIn := rest }).setReg d a v).quiet) ∨
    EngineStep { s with envIn := s.envIn.tail } t :=
  (step_cases h).imp_right .of_engineMove

/-! ## The invariant, update by update -/

theorem State.busyCoherent_of_idle {s : State} (h : s.phase = .idle) : s.busyCoherent = true := by
  simp [State.busyCoherent, h]

/-- What coherence says of a `Busy` engine that holds the command `i`. -/
theorem State.busyCoherent_iff {s : State} {i : Instr} (hp : s.phase = .busy)
    (hd : decode s.params s.opreg = .cmd i) :
    s.busyCoherent = true ↔
      permitted i.op (s.tag i.slot) = true ∧ s.stepNo.toNat < planLength i.op s.params.mode := by
  simp [State.busyCoherent, hp, hd]

/-- The register space may change freely, as long as it stays canonical: the rest of the invariant is about the other
fields. -/
theorem State.Sound.of_mem_changed {s t : State} (h : s.Sound) (hm : t.mem.wf = true) (hpar : t.params = s.params)
    (htags : t.tags = s.tags) (hph : t.phase = s.phase) (hop : t.opreg = s.opreg) (hst : t.stepNo = s.stepNo) :
    t.Sound := by
  obtain ⟨-, hv, ha, hb⟩ := h
  have htag : ∀ k, t.tag k = s.tag k := State.tag_congr htags
  refine ⟨hm, by rwa [hpar], fun k hk => ?_, ?_⟩
  · rw [htag]
    exact ha k (by rwa [← hpar])
  · simpa [State.busyCoherent, hpar, hph, hop, hst, htag] using hb

/-- An `Idle` engine has no command in progress to be coherent. -/
theorem State.Sound.of_idle {t : State} (hm : t.mem.wf = true) (hv : t.params.regs.valid = true)
    (ha : t.AbsentSlotsUnconfigured) (hp : t.phase = .idle) : t.Sound :=
  ⟨hm, hv, ha, State.busyCoherent_of_idle hp⟩

section
variable {s : State} (h : s.Sound)
include h

theorem State.Sound.setReg (d : DevAddr) (a : RegAddr) (v : Byte) : (s.setReg d a v).Sound :=
  h.of_mem_changed (State.setReg_wf h.left d a v) rfl rfl rfl rfl rfl

theorem State.Sound.busWrite (d : DevAddr) (a : RegAddr) (v : Byte) : (s.busWrite d a v).Sound :=
  h.of_mem_changed (State.busWrite_wf h.left d a v) (by simp) (by simp) (by simp) (by simp) (by simp)

theorem State.Sound.transact (q : Request) : (s.transact q).Sound := by
  cases q with
  | rd d a => exact h
  | wr d a v => exact h.busWrite d a v

theorem State.Sound.failEffect (q : Request) (landed : Bool) : (s.failEffect q landed).Sound := by
  cases q with
  | rd d a => exact h
  | wr d a v =>
    cases landed with
    | false => exact h
    | true => exact h.busWrite d a v

theorem State.Sound.raiseBusError (e : TErr) : (s.raiseBusError e).Sound := by
  obtain ⟨hm, hv, ha, -⟩ := h
  exact .of_idle hm hv ha rfl

theorem State.Sound.resetEngine (dev : DevAddr) : (s.resetEngine dev).Sound := by
  obtain ⟨hm, hv, -, -⟩ := h
  exact .of_idle hm hv (fun k _ => s.tag_resetEngine k dev) rfl

/-- The tag a command commits is that of a slot that exists, so no absent slot becomes configured (R22, R104). -/
theorem State.Sound.finish {k : Slot} (hk : s.params.mode.slotExists k = true) (c : Option Tag) (f : Latch → Word) :
    (s.finish k c f).Sound := by
  obtain ⟨hm, hv, ha, -⟩ := h
  refine .of_idle (by simpa using hm) (by simpa using hv) (fun k' hk' => ?_) rfl
  rw [State.finish_params] at hk'
  have hne : k' ≠ k := by
    rintro rfl
    rw [hk] at hk'
    cases hk'
  rw [State.tag_finish, if_neg hne]
  exact ha k' hk'

/-- A command that starts decodes, is permitted, and is at the first transaction of a plan that is not empty (R101). -/
theorem State.Sound.begin {i : Instr} (hw : i.wf s.params = true) (ht : permitted i.op (s.tag i.slot) = true) :
    (s.begin (encode i)).Sound := by
  obtain ⟨hm, hv, ha, -⟩ := h
  obtain ⟨hpos, -⟩ := planLength_pos i.op s.params.mode
  exact ⟨hm, hv, ha, (State.busyCoherent_iff (s := s.begin (encode i)) rfl (decode_encode hw)).2 ⟨ht, hpos⟩⟩

/-- `step` stays inside the plan when the transaction that completed was not the last (R26, R104). -/
theorem State.Sound.advance {i : Instr} (hp : s.phase = .busy) (hd : decode s.params s.opreg = .cmd i)
    (hl : s.stepNo.toNat + 1 < planLength i.op s.params.mode) : s.advance.Sound := by
  obtain ⟨hm, hv, ha, hb⟩ := h
  obtain ⟨ht, -⟩ := (State.busyCoherent_iff hp hd).1 hb
  obtain ⟨-, h4⟩ := planLength_pos i.op s.params.mode
  refine ⟨hm, hv, ha, (State.busyCoherent_iff (s := s.advance) hp hd).2 ⟨ht, ?_⟩⟩
  rwa [State.advance_stepNo, stepNo_succ hl h4]

end

theorem EngineStep.sound {s t : State} (h : s.Sound) (hst : EngineStep s t) : t.Sound := by
  cases hst with
  | wait | illegal | gated => exact h
  | reset dev rest _ _ => exact State.Sound.resetEngine (s := { s with hostIn := rest }) h dev
  | start w rest i _ _ hd ha => exact State.Sound.begin (s := { s with hostIn := rest }) h (wf_of_decode hd) ha
  | fail i q e landed rest _ _ =>
    exact (State.Sound.failEffect (s := { s with busIn := rest }) h q landed).raiseBusError e
  | more i q rest hrun _ hl =>
    have h' := State.Sound.transact (s := { s with busIn := rest }) h q
    exact h'.advance (i := i) (by simpa using hrun.busy) (by simpa using hrun.decodes) (by simpa using hl)
  | last i q rest hrun _ _ =>
    have h' := State.Sound.transact (s := { s with busIn := rest }) h q
    exact h'.finish (by simpa using Instr.slotExists_of_wf (wf_of_decode hrun.decodes)) _ _

/-- Settles O37: the environment's write changes the register space only, and each move of the engine keeps the
invariant. -/
theorem everyStepKeepsSound : Obligations.EveryStepKeepsSound := by
  intro s t h hst
  rcases step_engineStep hst with ⟨d, a, v, rest, -, rfl⟩ | hm
  · exact State.Sound.setReg (s := { s with envIn := rest }) h d a v
  · exact hm.sound (s := { s with envIn := s.envIn.tail }) h

/-! ## Tags -/

/-- Only the configuration commands commit a tag, and the gate permits them on an `Unconfigured` slot only (R104,
R170). -/
theorem commitTag_eq_some {i : Instr} {c : Tag} (h : commitTag i.op = some c) :
    requiredTag i.op = .unconfigured ∧ resultOf i.op = (fun _ _ => noResult) ∧
      ((i = .cfgOut i.slot ∧ c = .output) ∨ (i = .cfgIn i.slot ∧ c = .input)) := by
  cases i with
  | cfgOut k =>
    cases h
    exact ⟨rfl, rfl, Or.inl ⟨rfl, rfl⟩⟩
  | cfgIn k =>
    cases h
    exact ⟨rfl, rfl, Or.inr ⟨rfl, rfl⟩⟩
  | write _ _ | read _ | rdLatch _ | setPull _ _ | intEn _ _ | intMode _ _ | intDef _ _ => cases h

/-- A command in progress of a sound state has the tag the gate asks for (R172). -/
theorem State.Running.tag_eq {s : State} {i : Instr} {q : Request} (h : s.Sound) (hrun : s.Running i q) :
    s.tag i.slot = requiredTag i.op := by
  obtain ⟨-, -, -, hb⟩ := h
  obtain ⟨ht, -⟩ := (State.busyCoherent_iff hrun.busy hrun.decodes).1 hb
  simpa [permitted] using ht

/-- The step from `s` to `t` is the `OK` ending of the configuration command of slot `k`, which was `Unconfigured`
(R118). -/
def Configured (s t : State) (k : Slot) : Prop :=
  s.tag k = .unconfigured ∧ s.phase = .busy ∧ t.phase = .idle ∧
    t.output = some { status := .ok, rdata := 0, err := none } ∧
    ((s.opreg = encode (.cfgOut k) ∧ t.tag k = .output) ∨ (s.opreg = encode (.cfgIn k) ∧ t.tag k = .input))

/-- The `OK` ending of a command keeps a tag or configures it: only the tag of its own slot is written, and only if it
commits one (R104). -/
theorem finish_tag_or_configured {s : State} {i : Instr} {q : Request} (h : s.Sound) (hrun : s.Running i q)
    (rest : List Completion) (k : Slot) :
    let t := (({ s with busIn := rest }).transact q).finish i.slot (commitTag i.op)
      (resultOf i.op s.params.mode i.slot)
    t.tag k = s.tag k ∨ Configured s t k := by
  intro t
  have htag : ∀ k', (({ s with busIn := rest }).transact q).tag k' = s.tag k' := State.tag_congr (by simp)
  have hfin : t.tag k = if k = i.slot then (commitTag i.op).getD (s.tag i.slot) else s.tag k := by
    rw [State.tag_finish, htag, htag]
  cases hc : commitTag i.op with
  | none =>
    rw [hc] at hfin
    refine Or.inl (hfin.trans ?_)
    split_ifs with hk
    · rw [hk]
      rfl
    · rfl
  | some c =>
    by_cases hk : k = i.slot
    · subst hk
      rw [hc, if_pos rfl] at hfin
      obtain ⟨hreq, hres, hi⟩ := commitTag_eq_some hc
      refine Or.inr ⟨(hrun.tag_eq h).trans hreq, hrun.busy, rfl, ?_, hi.imp ?_ ?_⟩
      · simp only [t, State.finish_output, hres]
        rfl
      · rintro ⟨e, rfl⟩
        exact ⟨e ▸ hrun.opreg_eq, hfin⟩
      · rintro ⟨e, rfl⟩
        exact ⟨e ▸ hrun.opreg_eq, hfin⟩
    · rw [if_neg hk] at hfin
      exact Or.inl hfin

theorem EngineStep.tag_cases {s t : State} (h : s.Sound) (hst : EngineStep s t) (k : Slot) :
    t.tag k = s.tag k ∨
    (s.phase = .idle ∧ (∃ dev rest, s.hostIn = .reset dev :: rest) ∧ t.tag k = .unconfigured) ∨
    Configured s t k := by
  cases hst with
  | wait | illegal | gated | start => exact Or.inl rfl
  | reset dev rest hp hr => exact Or.inr (Or.inl ⟨hp, ⟨dev, rest, hr⟩, State.tag_resetEngine _ k dev⟩)
  | fail i q e landed rest _ _ => exact Or.inl (State.tag_congr (by simp) k)
  | more i q rest _ _ _ => exact Or.inl (State.tag_congr (by simp) k)
  | last i q rest hrun _ _ => exact (finish_tag_or_configured h hrun rest k).imp_right Or.inr

/-- Settles O40: of the engine's moves only Reset and the `OK` ending of a configuration command write a tag. -/
theorem tagsAreOneWay : Obligations.TagsAreOneWay := by
  intro s t k h hst
  rcases step_engineStep hst with ⟨d, a, v, rest, -, rfl⟩ | hm
  · exact Or.inl rfl
  · exact hm.tag_cases (s := { s with envIn := s.envIn.tail }) h k

/-! ## The log -/

/-- The log has one more entry: the outstanding transaction, which the transport answered `Ok` (R61). -/
def Logged (s t : State) : Prop :=
  (∃ d a rest, s.outstanding = some (.rd d a) ∧ s.busIn = .ok :: rest ∧ t.log = s.log ++ [.rd d a (s.reg d a)]) ∨
  (∃ d a v rest, s.outstanding = some (.wr d a v) ∧ s.busIn = .ok :: rest ∧ t.log = s.log ++ [.wr d a v])

theorem logged_of_transact {s t : State} {q : Request} {rest : List Completion} (hq : s.outstanding = some q)
    (hb : s.busIn = .ok :: rest) (ht : t.log = (({ s with busIn := rest }).transact q).log) : Logged s t := by
  cases q with
  | rd d a => exact Or.inl ⟨d, a, rest, hq, hb, ht⟩
  | wr d a v => exact Or.inr ⟨d, a, v, rest, hq, hb, ht⟩

theorem EngineStep.log_cases {s t : State} (hst : EngineStep s t) : t.log = s.log ∨ Logged s t := by
  cases hst with
  | wait | reset | illegal | gated | start => exact Or.inl rfl
  | fail i q e landed rest _ _ => exact Or.inl (by simp)
  | more i q rest hrun hb _ => exact Or.inr (logged_of_transact hrun.outstanding hb (by simp))
  | last i q rest hrun hb _ => exact Or.inr (logged_of_transact hrun.outstanding hb (by simp))

/-- Settles O44: of the engine's moves only the `Ok` completion of the outstanding transaction writes the log. -/
theorem logRecordsCompletedTransactions : Obligations.LogRecordsCompletedTransactions := by
  intro s t hst
  rcases step_engineStep hst with ⟨d, a, v, rest, -, rfl⟩ | hm
  · exact Or.inl rfl
  · exact hm.log_cases

/-! ## The response -/

/-- Data belongs to `OK`, the error value to `BUS_ERROR` (R80, R82). -/
def Response.Shaped (r : Response) : Prop :=
  (r.status ≠ .ok → r.rdata = 0) ∧ (r.err.isSome = true ↔ r.status = .busError)

theorem okResponse_shaped (d : Word) : (okResponse d).Shaped := by
  simp [Response.Shaped, okResponse]

theorem busErrorResponse_shaped (e : TErr) : (busErrorResponse e).Shaped := by
  simp [Response.Shaped, busErrorResponse]

theorem gatedResponse_shaped : gatedResponse.Shaped := by
  simp [Response.Shaped, gatedResponse]

theorem illegalResponse_shaped : illegalResponse.Shaped := by
  simp [Response.Shaped, illegalResponse]

/-- A move that emits a response refuses a command or ends one, and both leave the engine `Idle`. -/
theorem EngineStep.response_shaped {s t : State} {r : Response} (hst : EngineStep s t) (ho : t.output = some r) :
    t.phase = .idle ∧ r.Shaped := by
  cases hst with
  | wait | reset | start | more => cases ho
  | illegal w rest why hp _ _ =>
    cases ho
    exact ⟨hp, illegalResponse_shaped⟩
  | gated w rest i hp _ _ _ =>
    cases ho
    exact ⟨hp, gatedResponse_shaped⟩
  | fail i q e landed rest _ _ =>
    cases ho
    exact ⟨rfl, busErrorResponse_shaped e⟩
  | last i q rest _ _ _ =>
    cases ho
    exact ⟨rfl, okResponse_shaped _⟩

/-- Settles O47: the environment's write emits nothing, and every response of the engine's moves has its shape. -/
theorem responseShape : Obligations.ResponseShape := by
  intro s t r hst ho
  rcases step_engineStep hst with ⟨d, a, v, rest, -, rfl⟩ | hm
  · cases ho
  · exact hm.response_shaped ho

/-! ## The step of a `Busy` engine, and the state after reset -/

theorem engineMove_busy {s : State} {i : Instr} (hp : s.phase = .busy) (hd : decode s.params s.opreg = .cmd i) :
    engineMove s = exec i s := by
  simp [engineMove, transportMove, hp, hd]

/-- Settles O8: the turn is the engine's, and `opreg` decodes to the command it encodes. -/
theorem stepContinuesBusyCommand : Obligations.StepContinuesBusyCommand := by
  intro s i hturn hp ho hw
  rw [step_engine hturn]
  exact engineMove_busy hp (by rw [← decode_encode hw, ← ho])

theorem State.tag_reset (k : Slot) : State.reset.tag k = .unconfigured := by
  simp [State.tag, State.reset]

/-- Settles O36: the fields of `State.reset`, as it is written (R190). -/
theorem resetValues : Obligations.ResetValues :=
  ⟨State.tag_reset, rfl, rfl, rfl, rfl⟩

end Sys2Proof.Machine

/-! PROOFS. 20_memory.md: the register decoder (O52, O45), split and join (O51), the reset state meets the invariant
(O38), and what changes a register: the outstanding write (O43), a failed one (O26), a torn `Chip` write (O29). -/

namespace Sys2Proof.Machine

/-! ## The register decoder -/

/-- The ten register kinds, in the order of R42. -/
def allKinds : List RegKind := [.dir, .ipol, .inten, .intdef, .intcmp, .pull, .intf, .intcap, .gpio, .olat]

/-- The twenty registers, bank A first: the order in which `RegTable.valid` lists their addresses. -/
def allRegisters : List (RegKind × Bank) := allKinds.map (·, .A) ++ allKinds.map (·, .B)

/-- The register decoder on one register as a pair. -/
def registerAddr (t : RegTable) (r : RegKind × Bank) : RegAddr := addr t r.1 r.2

theorem mem_allKinds (k : RegKind) : k ∈ allKinds := by cases k <;> decide

theorem mem_allRegisters (k : RegKind) (b : Bank) : (k, b) ∈ allRegisters := by
  cases b with
  | A => exact List.mem_append_left _ (List.mem_map_of_mem (mem_allKinds k))
  | B => exact List.mem_append_right _ (List.mem_map_of_mem (mem_allKinds k))

theorem bases_eq_map (t : RegTable) : t.bases = allKinds.map (baseAddr t) := rfl

/-- Validity said of the decoder: its twenty addresses are distinct, and no bank A address wraps (R47). -/
theorem regTable_valid_iff {t : RegTable} :
    t.valid = true ↔ (allRegisters.map (registerAddr t)).Nodup ∧ ∀ k, addr t k .A ≠ 0xFF := by
  have e : t.bases ++ t.bases.map (· + 1) = allRegisters.map (registerAddr t) := rfl
  rw [RegTable.valid, e, bases_eq_map]
  simp [mem_allKinds, addr]

/-- A valid table gives different registers different addresses (R47 (b)). -/
theorem addr_inj {t : RegTable} (h : t.valid = true) {k k' : RegKind} {b b' : Bank}
    (e : addr t k b = addr t k' b') : k = k' ∧ b = b' := by
  obtain ⟨hnodup, -⟩ := regTable_valid_iff.1 h
  exact Prod.mk.inj (List.inj_on_of_nodup_map hnodup (mem_allRegisters k b) (mem_allRegisters k' b') e)

/-- Registers of different kinds have different addresses. -/
theorem addr_ne_of_kind_ne {t : RegTable} (h : t.valid = true) {k k' : RegKind} (hk : k ≠ k') (b b' : Bank) :
    addr t k b ≠ addr t k' b' := fun e => hk (addr_inj h e).left

theorem defaultRegs_valid : defaultRegs.valid = true := by decide

/-- Settles O52: validity is injectivity of the decoder on the twenty registers; bank B is the next address by the
decoder's definition. -/
theorem registerDecoderInjective : Obligations.RegisterDecoderInjective := by
  refine ⟨fun t h => ⟨fun k => ⟨rfl, ?_⟩, fun k b k' b' e => addr_inj h e⟩, defaultRegs_valid⟩
  obtain ⟨-, hwrap⟩ := regTable_valid_iff.1 h
  exact hwrap k

/-! ## The registers a command reaches -/

/-- The one register kind a command reads and writes (R102, R115 to R147). -/
def accessedKind : Op → RegKind
  | .cfgOut | .cfgIn => .dir
  | .write | .read   => .gpio
  | .rdLatch         => .olat
  | .setPull         => .pull
  | .intEn           => .inten
  | .intMode         => .intcmp
  | .intDef          => .intdef

theorem requestAddr_of_mem_maskedPlan {k : RegKind} {p : Params} {dev : DevAddr} {s : Slot} {val : Word} {cur : Latch}
    {q : Request} (h : q ∈ maskedPlan k p dev s val cur) : ∃ b, Claims.requestAddr q = addr p.regs k b := by
  by_cases hm : p.mode = .chip
  · rw [maskedPlan_word k p dev s val cur hm] at h
    simp only [List.mem_cons, List.not_mem_nil, or_false] at h
    rcases h with rfl | rfl | rfl | rfl
    exacts [⟨.A, rfl⟩, ⟨.B, rfl⟩, ⟨.A, rfl⟩, ⟨.B, rfl⟩]
  · rw [maskedPlan_byte k p dev s val cur hm] at h
    simp only [List.mem_cons, List.not_mem_nil, or_false] at h
    rcases h with rfl | rfl <;> exact ⟨slotBank s, rfl⟩

theorem requestAddr_of_mem_readPlan {k : RegKind} {p : Params} {dev : DevAddr} {s : Slot} {q : Request}
    (h : q ∈ readPlan k p dev s) : ∃ b, Claims.requestAddr q = addr p.regs k b := by
  by_cases hm : p.mode = .chip
  · rw [readPlan_word k p dev s hm] at h
    simp only [List.mem_cons, List.not_mem_nil, or_false] at h
    rcases h with rfl | rfl
    exacts [⟨.A, rfl⟩, ⟨.B, rfl⟩]
  · rw [readPlan_byte k p dev s hm, List.mem_singleton] at h
    rw [h]
    exact ⟨slotBank s, rfl⟩

theorem requestAddr_of_mem_planWrite {p : Params} {dev : DevAddr} {s : Slot} {val : Word} {cur : Latch} {q : Request}
    (h : q ∈ planWrite p dev s val cur) : ∃ b, Claims.requestAddr q = addr p.regs .gpio b := by
  by_cases hm : p.mode = .chip
  · rw [planWrite_word p dev s val cur hm] at h
    simp only [List.mem_cons, List.not_mem_nil, or_false] at h
    rcases h with rfl | rfl
    exacts [⟨.A, rfl⟩, ⟨.B, rfl⟩]
  · rw [planWrite_byte p dev s val cur hm] at h
    exact requestAddr_of_mem_maskedPlan h

/-- Every transaction of a command's plan names a register of the command's kind (R102). -/
theorem requestAddr_of_mem_planOf {i : Instr} {p : Params} {dev : DevAddr} {cur : Latch} {q : Request}
    (h : q ∈ planOf i p dev cur) : ∃ b, Claims.requestAddr q = addr p.regs (accessedKind i.op) b := by
  cases i with
  | write _ _ => exact requestAddr_of_mem_planWrite h
  | read _ | rdLatch _ => exact requestAddr_of_mem_readPlan h
  | cfgOut _ | cfgIn _ | setPull _ _ | intEn _ _ | intMode _ _ | intDef _ _ => exact requestAddr_of_mem_maskedPlan h

/-- No command is about one of R44's three unused kinds. -/
theorem accessedKind_ne_unused (o : Op) :
    accessedKind o ≠ .ipol ∧ accessedKind o ≠ .intf ∧ accessedKind o ≠ .intcap := by
  cases o <;> decide

/-- Settles O45: the outstanding transaction names a register of its command's kind, which is none of the three, and
different kinds have different addresses. -/
theorem unusedKindsNeverAccessed : Obligations.UnusedKindsNeverAccessed := by
  intro s q b hv hq
  obtain ⟨-, i, -, hi⟩ := s.outstanding_cases hq
  obtain ⟨b', e⟩ := requestAddr_of_mem_planOf (List.mem_of_getElem? hi)
  obtain ⟨hipol, hintf, hintcap⟩ := accessedKind_ne_unused i.op
  rw [e]
  exact ⟨addr_ne_of_kind_ne hv hipol b' b, addr_ne_of_kind_ne hv hintf b' b, addr_ne_of_kind_ne hv hintcap b' b⟩

/-! ## Split and join, and the reset state -/

@[simp] theorem joinBytes_split (v : Word) : joinBytes (lowByte v) (highByte v) = v :=
  BitVec.extractLsb'_append_extractLsb' (w := 8) (len := 8)

@[simp] theorem lowByte_joinBytes (lo hi : Byte) : lowByte (joinBytes lo hi) = lo :=
  BitVec.extractLsb'_append_eq_right

@[simp] theorem highByte_joinBytes (lo hi : Byte) : highByte (joinBytes lo hi) = hi :=
  BitVec.extractLsb'_append_eq_left

/-- Settles O51: the two bytes are the two fields of the word's concatenation. -/
theorem splitJoinInverse : Obligations.SplitJoinInverse :=
  ⟨fun _ => ⟨rfl, rfl⟩, joinBytes_split, fun lo hi => ⟨lowByte_joinBytes lo hi, highByte_joinBytes lo hi⟩⟩

/-- Settles O38: after reset the engine is `Idle`, nothing is configured, and the default table meets R47. -/
theorem resetIsSound : Obligations.ResetIsSound :=
  .of_idle State.reset_mem_wf defaultRegs_valid (fun k _ => State.tag_reset k) rfl

/-! ## What a transaction does to the registers -/

/-- The transaction writes `v`, and to the register `a` of `d`: the one it names, or the latch the mock chip couples to
it (R51, R62). -/
def Request.Reaches (p : Params) (q : Request) (d : DevAddr) (a : RegAddr) (v : Byte) : Prop :=
  ∃ a', q = .wr d a' v ∧ (a = a' ∨ coupledLatch p a' = some a)

/-- A write transaction gives its byte to the registers it reaches, and no other register changes. -/
theorem State.reg_busWrite_cases {s : State} (hm : s.mem.wf = true) (d : DevAddr) (a : RegAddr) (v : Byte)
    (d' : DevAddr) (a' : RegAddr) :
    (s.busWrite d a v).reg d' a' = s.reg d' a' ∨
      (Request.wr d a v).Reaches s.params d' a' ((s.busWrite d a v).reg d' a') := by
  by_cases hd : d' = d
  · subst hd
    by_cases ha : a' = a
    · subst ha
      rw [State.reg_busWrite_same hm]
      exact Or.inr ⟨a', rfl, Or.inl rfl⟩
    · by_cases hl : coupledLatch s.params a = some a'
      · rw [State.reg_busWrite_coupled hm d' v hl]
        exact Or.inr ⟨a, rfl, Or.inr hl⟩
      · exact Or.inl (s.reg_busWrite_other v (Or.inr ⟨ha, hl⟩))
  · exact Or.inl (s.reg_busWrite_other v (Or.inl hd))

theorem State.reg_transact_cases {s : State} (hm : s.mem.wf = true) (q : Request) (d : DevAddr) (a : RegAddr) :
    (s.transact q).reg d a = s.reg d a ∨ q.Reaches s.params d a ((s.transact q).reg d a) := by
  cases q with
  | rd _ _ => exact Or.inl rfl
  | wr d' a' v => exact State.reg_busWrite_cases hm d' a' v d a

theorem State.reg_failEffect_cases {s : State} (hm : s.mem.wf = true) (q : Request) (landed : Bool) (d : DevAddr)
    (a : RegAddr) :
    (s.failEffect q landed).reg d a = s.reg d a ∨ q.Reaches s.params d a ((s.failEffect q landed).reg d a) := by
  cases q with
  | rd _ _ => exact Or.inl rfl
  | wr d' a' v =>
    cases landed with
    | false => exact Or.inl rfl
    | true => exact State.reg_busWrite_cases hm d' a' v d a

/-- The register a failed write names holds the new byte or the old one (R51, R204). -/
theorem State.reg_failEffect_same {s : State} (hm : s.mem.wf = true) (d : DevAddr) (a : RegAddr) (v : Byte)
    (landed : Bool) : (s.failEffect (.wr d a v) landed).reg d a = if landed then v else s.reg d a := by
  cases landed with
  | false => rfl
  | true => exact State.reg_busWrite_same hm d a v

/-- A failed write leaves alone every register that the write would. -/
theorem State.reg_failEffect_other (s : State) {d d' : DevAddr} {a a' : RegAddr} (v : Byte) (landed : Bool)
    (h : d' ≠ d ∨ (a' ≠ a ∧ coupledLatch s.params a ≠ some a')) :
    (s.failEffect (.wr d a v) landed).reg d' a' = s.reg d' a' := by
  cases landed with
  | false => rfl
  | true => exact s.reg_busWrite_other v h

/-- Settles O26: the exceptional end keeps the registers as the failed write left them. -/
theorem failedWriteIsOldOrNew : Obligations.FailedWriteIsOldOrNew := by
  intro s i d a v e landed rest hm hp ho hw hq hb
  rw [State.outstanding_eq hp ho hw] at hq
  exact ⟨_, exec_err hp ho hq hb, State.reg_failEffect_same (s := { s with busIn := rest }) hm d a v landed,
    fun _ _ h => State.reg_failEffect_other { s with busIn := rest } v landed h⟩

/-! ## What changes a register -/

/-- A move of the engine changes a register only by the outstanding write reaching it (R57). -/
theorem EngineStep.reg_cases {s t : State} (hm : s.mem.wf = true) (hst : EngineStep s t) (d : DevAddr) (a : RegAddr) :
    t.reg d a = s.reg d a ∨
      (s.phase = .busy ∧ ∃ q, s.outstanding = some q ∧ q.Reaches s.params d a (t.reg d a)) := by
  cases hst with
  | wait | reset | illegal | gated | start => exact Or.inl rfl
  | fail i q e landed rest hrun _ =>
    exact (State.reg_failEffect_cases (s := { s with busIn := rest }) hm q landed d a).imp_right
      fun h => ⟨hrun.busy, q, hrun.outstanding, h⟩
  | more i q rest hrun _ _ =>
    exact (State.reg_transact_cases (s := { s with busIn := rest }) hm q d a).imp_right
      fun h => ⟨hrun.busy, q, hrun.outstanding, h⟩
  | last i q rest hrun _ _ =>
    rw [State.reg_finish]
    exact (State.reg_transact_cases (s := { s with busIn := rest }) hm q d a).imp_right
      fun h => ⟨hrun.busy, q, hrun.outstanding, h⟩

/-- Settles O43: the environment's turn writes the one register it names, and the engine's moves change a register only
through the outstanding write. -/
theorem registersChangeOnlyByWrites : Obligations.RegistersChangeOnlyByWrites := by
  intro s t d a hm hst
  rcases step_engineStep hst with ⟨d', a', v, rest, he, rfl⟩ | hmove
  · by_cases h : d = d' ∧ a = a'
    · obtain ⟨rfl, rfl⟩ := h
      exact Or.inr (Or.inl ⟨v, rest, he, State.reg_setReg_same (s := { s with envIn := rest }) hm d a v⟩)
    · exact Or.inl (State.reg_setReg_other { s with envIn := rest } v (not_and_or.1 h))
  · rcases hmove.reg_cases (s := { s with envIn := s.envIn.tail }) hm d a with hkept | ⟨hp, q, hq, a', rfl, ha⟩
    · exact Or.inl hkept
    · exact Or.inr (Or.inr ⟨a', _, hp, hq, ha, rfl⟩)

/-! ## A `Chip` write that tears -/

/-- The mock chip couples `OLAT` registers only (R62). -/
theorem coupledLatch_eq_some {p : Params} {a l : RegAddr} (h : coupledLatch p a = some l) :
    ∃ b, l = addr p.regs .olat b := by
  unfold coupledLatch at h
  split at h
  · cases h
  · split_ifs at h <;> cases h
    · exact ⟨.A, rfl⟩
    · exact ⟨.B, rfl⟩

/-- No write reaches a `GPIO` register as a coupled latch. -/
theorem coupledLatch_ne_gpio {p : Params} (hv : p.regs.valid = true) (a : RegAddr) (b : Bank) :
    coupledLatch p a ≠ some (addr p.regs .gpio b) := by
  intro h
  obtain ⟨b', e⟩ := coupledLatch_eq_some h
  exact addr_ne_of_kind_ne hv (by decide) b b' e

/-- A write of one bank's `GPIO` does not reach the other bank's. -/
theorem gpio_not_reached {p : Params} (hv : p.regs.valid = true) {b b' : Bank} (h : b' ≠ b) :
    addr p.regs .gpio b' ≠ addr p.regs .gpio b ∧
      coupledLatch p (addr p.regs .gpio b) ≠ some (addr p.regs .gpio b') :=
  ⟨fun e => h (addr_inj hv e).right, coupledLatch_ne_gpio hv _ b'⟩

section
variable (s : State) (k : Slot) (v : Word)

/-- A `Chip` `WRITE` of `v` between its two writes: accepted, and the first write completed `Ok`; the transport's
answers still to come are `answers`. -/
def State.betweenWrites (answers : List Completion) : State :=
  (({ s.begin (encode (.write k v)) with busIn := answers }).transact
    (.wr s.devAddr (addr s.params.regs .gpio .A) (lowByte v))).advance

/-- The first write gave bank A its byte. -/
theorem State.reg_betweenWrites_A (hm : s.mem.wf = true) (answers : List Completion) :
    (s.betweenWrites k v answers).reg s.devAddr (addr s.params.regs .gpio .A) = lowByte v :=
  State.reg_busWrite_same (s := { s.begin (encode (.write k v)) with busIn := answers }) hm _ _ _

/-- The first write left bank B alone. -/
theorem State.reg_betweenWrites_B (hv : s.params.regs.valid = true) (answers : List Completion) :
    (s.betweenWrites k v answers).reg s.devAddr (addr s.params.regs .gpio .B) =
      s.reg s.devAddr (addr s.params.regs .gpio .B) :=
  State.reg_busWrite_other { s.begin (encode (.write k v)) with busIn := answers } _
    (Or.inr (gpio_not_reached hv (by decide)))

theorem State.betweenWrites_wf (hm : s.mem.wf = true) (answers : List Completion) :
    (s.betweenWrites k v answers).mem.wf = true :=
  State.busWrite_wf (s := { s.begin (encode (.write k v)) with busIn := answers }) hm _ _ _

@[simp] theorem State.betweenWrites_params (answers : List Completion) :
    (s.betweenWrites k v answers).params = s.params := by simp [State.betweenWrites]

@[simp] theorem State.betweenWrites_devAddr (answers : List Completion) :
    (s.betweenWrites k v answers).devAddr = s.devAddr := by simp [State.betweenWrites]

@[simp] theorem State.betweenWrites_phase (answers : List Completion) :
    (s.betweenWrites k v answers).phase = .busy := by simp [State.betweenWrites]

@[simp] theorem State.betweenWrites_opreg (answers : List Completion) :
    (s.betweenWrites k v answers).opreg = encode (.write k v) := by simp [State.betweenWrites]

@[simp] theorem State.betweenWrites_stepNo (answers : List Completion) :
    (s.betweenWrites k v answers).stepNo = 1 := by simp [State.betweenWrites]

@[simp] theorem State.betweenWrites_busIn (answers : List Completion) :
    (s.betweenWrites k v answers).busIn = answers := by simp [State.betweenWrites]

end

section
variable {s : State} {k : Slot} {v : Word} (hc : s.params.mode = .chip)
include hc

/-- The first write of a `Chip` `WRITE` completes `Ok` (R53, R104). -/
theorem exec_first_write_ok {answers : List Completion} (hb : s.busIn = .ok :: answers) :
    exec (.write k v) (s.begin (encode (.write k v))) = .next (s.betweenWrites k v answers) := by
  have hplan := planWrite_word s.params s.devAddr k v (s.begin (encode (.write k v))).cur hc
  exact exec_more (s := s.begin (encode (.write k v))) rfl rfl (congrArg (·[0]?) hplan) hb Nat.one_lt_two

/-- The second write of a `Chip` `WRITE` fails (R53, R103). -/
theorem exec_second_write_err {e : TErr} {landed : Bool} {rest : List Completion} :
    exec (.write k v) (s.betweenWrites k v (.err e landed :: rest)) =
      .next ((({ s.betweenWrites k v (.err e landed :: rest) with busIn := rest }).failEffect
        (.wr s.devAddr (addr s.params.regs .gpio .B) (highByte v)) landed).raiseBusError e) :=
  exec_err (by simp) (by simp) (by simp [planOf, planWrite_word, hc]) (by simp)

end

/-- Settles O29: the first write stands, and the failed second one leaves bank A alone. -/
theorem chipWriteCanTear : Obligations.ChipWriteCanTear := by
  intro s k v e landed rest hm hv hp hc hw htag hb a b
  let t := s.betweenWrites k v (.err e landed :: rest)
  have hA : t.reg s.devAddr a = lowByte v := s.reg_betweenWrites_A k v hm _
  have hB : t.reg s.devAddr b = s.reg s.devAddr b := s.reg_betweenWrites_B k v hv _
  refine ⟨_, t, _, exec_start hp hw htag, exec_first_write_ok hc hb, exec_second_write_err hc, rfl, rfl, ?_, ?_⟩
  · rw [← hA]
    refine State.reg_failEffect_other { t with busIn := rest } _ landed (Or.inr ?_)
    have hpar : t.params = s.params := s.betweenWrites_params k v _
    rw [hpar]
    exact gpio_not_reached hv (by decide)
  · rw [← hB]
    exact State.reg_failEffect_same (s := { t with busIn := rest }) (s.betweenWrites_wf k v hm _) _ _ _ landed

end Sys2Proof.Machine

/-! PROOFS. 30_encoding.md: encoding and decoding undo each other (O1, O2), the illegal words (O4, O3), the words of the
spec (O5), the pseudo-instructions (O6), and the fields of a result (O50) and of the response word (O54). -/

namespace Sys2Proof

/-! ## Encoding and decoding -/

/-- Settles O1: the fields of the encoded word are the command's, so the checks of R75 are those of well-formedness. -/
theorem encodeThenDecode : Obligations.EncodeThenDecode := fun _ _ hw => decode_encode hw

/-- Settles O2: `decode` keeps all three fields, and a word is its fields. -/
theorem decodedWordIsItsEncoding : Obligations.DecodedWordIsItsEncoding :=
  fun _ _ _ h => ⟨(eq_encode_of_decode h).symm, wf_of_decode h⟩

/-! ## The illegal words -/

/-- A word is illegal when a check of R75 fails: of the opcode, of the slot (whatever the opcode is), or of the data. -/
theorem decode_illegal_iff {p : Params} {w : CmdWord} :
    (∃ why, decode p w = .illegal why) ↔
      (opOf (fieldOpc w) = none ∨ ∃ o, opOf (fieldOpc w) = some o ∧ p.opExists o = false) ∨
      p.mode.slotExists (fieldSel w) = false ∨
      ∃ o, opOf (fieldOpc w) = some o ∧ p.dataLegal o (fieldData w) = false := by
  unfold decode
  cases opOf (fieldOpc w) with
  | none => simp
  | some o =>
    simp only [reduceCtorEq, false_or, Option.some.injEq, exists_eq_left']
    split_ifs with hop hslot hdata <;> simp [*]

/-- The opcodes without a row in the opcode map (R77). -/
theorem opOf_eq_none_iff {c : BitVec 4} : opOf c = none ↔ c ∈ [0x0, 0xA, 0xB, 0xC, 0xD, 0xE, 0xF] := by
  revert c
  decide

/-- Only `RD_LATCH` can be missing, and only without `LATCH_READBACK` (R77). -/
theorem exists_opOf_not_opExists_iff {p : Params} {c : BitVec 4} :
    (∃ o, opOf c = some o ∧ p.opExists o = false) ↔ c = 0x5 ∧ p.latchReadback = false := by
  constructor
  · rintro ⟨o, ho, he⟩
    rw [← code_of_opOf ho]
    cases o with
    | rdLatch => exact ⟨rfl, he⟩
    | _ => cases he
  · rintro ⟨rfl, hl⟩
    exact ⟨.rdLatch, rfl, hl⟩

theorem slotExists_eq_false_iff {m : Mode} {s : Slot} :
    m.slotExists s = false ↔ (m = .chip ∧ s ≠ 0) ∨ (m = .port ∧ s ≠ 0 ∧ s ≠ 8) := by
  cases m <;> simp [Mode.slotExists]

/-- A shift leaves nothing exactly when the field above the bits shifted out is zero. -/
theorem ushiftRight_eq_zero_iff {w n len : Nat} (h : w ≤ n + len) (d : BitVec w) :
    d >>> n = 0 ↔ d.extractLsb' n len = 0 := by
  have hlt : d.toNat >>> n < 2 ^ len := by
    rw [Nat.shiftRight_eq_div_pow]
    refine Nat.div_lt_of_lt_mul (d.isLt.trans_le ?_)
    rw [← Nat.pow_add]
    exact Nat.pow_le_pow_right Nat.two_pos h
  rw [← BitVec.toNat_inj, ← BitVec.toNat_inj, BitVec.toNat_ushiftRight, BitVec.extractLsb'_toNat, Nat.mod_eq_of_lt hlt]
  rfl

/-- Which bits make an operand too wide for the handle (R73): none in `Chip` mode. -/
theorem operandFits_eq_false_iff {m : Mode} {d : Word} :
    m.operandFits d = false ↔ (m = .port ∧ d.extractLsb' 8 8 ≠ 0) ∨ (m = .pin ∧ d.extractLsb' 1 15 ≠ 0) := by
  rw [Mode.operandFits, beq_eq_false_iff_ne]
  cases m with
  | chip => simpa [Mode.width] using BitVec.ushiftRight_eq_zero (x := d) (Nat.le_refl 16)
  | port => simpa [Mode.width] using (ushiftRight_eq_zero_iff (n := 8) (Nat.le_refl 16) d).not
  | pin => simpa [Mode.width] using (ushiftRight_eq_zero_iff (n := 1) (Nat.le_refl 16) d).not

/-- The opcodes with an operand, by the opcode map (R76). -/
theorem mem_operandOpcodes_iff {c : BitVec 4} :
    c ∈ [0x3, 0x6, 0x7, 0x8, 0x9] ↔ ∃ o, opOf c = some o ∧ o.hasOperand = true := by
  revert c
  decide

/-- The opcodes without an operand, by the opcode map (R76). -/
theorem mem_plainOpcodes_iff {c : BitVec 4} :
    c ∈ [0x1, 0x2, 0x4, 0x5] ↔ ∃ o, opOf c = some o ∧ o.hasOperand = false := by
  revert c
  decide

/-- The data check fails for an operand too wide for the handle, or for data where there is no operand (R73). -/
theorem exists_opOf_not_dataLegal_iff {p : Params} {c : BitVec 4} {d : Word} :
    (∃ o, opOf c = some o ∧ p.dataLegal o d = false) ↔
      (c ∈ [0x3, 0x6, 0x7, 0x8, 0x9] ∧ p.mode.operandFits d = false) ∨ (c ∈ [0x1, 0x2, 0x4, 0x5] ∧ d ≠ 0) := by
  rw [mem_operandOpcodes_iff, mem_plainOpcodes_iff]
  constructor
  · rintro ⟨o, ho, hd⟩
    cases hop : o.hasOperand with
    | true => exact .inl ⟨⟨o, ho, hop⟩, by simpa [Params.dataLegal, hop] using hd⟩
    | false => exact .inr ⟨⟨o, ho, hop⟩, by simpa [Params.dataLegal, hop] using hd⟩
  · rintro (⟨⟨o, ho, hop⟩, hd⟩ | ⟨⟨o, ho, hop⟩, hd⟩)
    all_goals exact ⟨o, ho, by simpa [Params.dataLegal, hop] using hd⟩

/-- Settles O4: each check of R75, said of the field it reads. -/
theorem illegalEncodingsExactly : Obligations.IllegalEncodingsExactly := by
  intro p w
  rw [decode_illegal_iff, opOf_eq_none_iff, exists_opOf_not_opExists_iff, slotExists_eq_false_iff,
    exists_opOf_not_dataLegal_iff, operandFits_eq_false_iff]

/-- Settles O3: these words stand first in the list of illegal encodings (O4). -/
theorem reservedOpcodesIllegal : Obligations.ReservedOpcodesIllegal := by
  intro p
  have illegal_of_opcode {w : CmdWord} h := (illegalEncodingsExactly p w).2 (.inl h)
  exact ⟨fun w h => illegal_of_opcode (.inl h), fun w hl h => illegal_of_opcode (.inr ⟨h, hl⟩),
    illegal_of_opcode (.inl (by decide))⟩

/-- Settles O5: the decoder run on the eight words. -/
theorem specWordsDecode : Obligations.SpecWordsDecode := by
  unfold Obligations.SpecWordsDecode
  decide

end Sys2Proof

namespace Sys2Proof.Machine

/-! ## The pseudo-instructions -/

theorem mode_width_le (m : Mode) : m.width ≤ 16 := by cases m <;> decide

theorem opExists_of_hasOperand {p : Params} {o : Op} (ho : o.hasOperand = true) : p.opExists o = true := by
  cases o with
  | rdLatch => cases ho
  | _ => rfl

/-- On a slot of the mode, a command whose operand `rep` builds to the handle width is well-formed. -/
theorem wf_instr_rep {p : Params} {o : Op} {s : Slot} (ho : o.hasOperand = true) (hs : p.mode.slotExists s = true)
    (b : Bool) : (o.instr s (rep b p.mode.width)).wf p = true := by
  simp [Instr.wf, Op.instr_data, Params.dataLegal, ho, opExists_of_hasOperand ho, hs, rep_fits]

/-- Every row of R84 is of this form. -/
theorem pseudoRow_of_rep {p : Params} {x : PseudoInstr} {o : Op} {s : Slot} {b : Bool} (ho : o.hasOperand = true)
    (hx : expandPseudo p x = some (o.instr s (rep b p.mode.width))) : Claims.PseudoRow p x o s b := by
  refine ⟨_, hx, Op.instr_op .., Op.instr_slot .., fun j => ?_, fun hs => decode_encode (wf_instr_rep ho hs b)⟩
  rw [Op.instr_data, if_pos ho, rep_getLsbD b (mode_width_le p.mode)]

/-- The operands 1 and 0 of `WRITE s, High` and `WRITE s, Low` are those that `rep` builds for one bit. -/
theorem expandPseudo_write_pin {p : Params} (hm : p.mode = .pin) (s : Slot) :
    expandPseudo p (.writeHigh s) = some (.write s (rep true p.mode.width)) ∧
    expandPseudo p (.writeLow s) = some (.write s (rep false p.mode.width)) := by
  simp only [expandPseudo, writeLevel, hm]
  exact ⟨rfl, rfl⟩

theorem expandPseudo_write_not_pin {p : Params} (hm : p.mode ≠ .pin) (s : Slot) :
    expandPseudo p (.writeHigh s) = none ∧ expandPseudo p (.writeLow s) = none := by
  cases h : p.mode with
  | pin => exact absurd h hm
  | chip | port => simp [expandPseudo, writeLevel, h]

/-- Settles O6: the operand of every row is built by `rep` (R10), the two `WRITE` rows' in `Pin` mode only. -/
theorem pseudoInstructionsAreCommands : Obligations.PseudoInstructionsAreCommands := by
  refine ⟨fun p s => ⟨?_, ?_, ?_, ?_, ?_, ?_, ?_, ?_, fun hm => ?write, fun hm => expandPseudo_write_not_pin hm s⟩,
    fun _ => rfl⟩
  case write =>
    obtain ⟨hhigh, hlow⟩ := expandPseudo_write_pin hm s
    exact ⟨pseudoRow_of_rep rfl hhigh, pseudoRow_of_rep rfl hlow⟩
  all_goals exact pseudoRow_of_rep rfl rfl

/-! ## The fields of a result and of the response word -/

/-- Settles O50: one case per mode. -/
theorem readResultBits : Obligations.ReadResultBits := by
  intro s c j
  have hlt (k : Nat) (h : c.lo.getLsbD k = true) : k < 16 := (BitVec.lt_of_getLsbD h).trans (by decide)
  refine ⟨?chip, ?port, ?pin⟩
  case chip => exact BitVec.getLsbD_append
  case port => simpa [extractResult] using hlt j
  case pin =>
    rcases Nat.eq_zero_or_pos j with rfl | hj
    · simpa [extractResult] using hlt (slotBit s)
    · simp [extractResult, hj.ne']

/-- Settles O54: the word is the concatenation of the two fields. -/
theorem responseWordFields : Obligations.ResponseWordFields := by
  intro r
  refine ⟨?status, BitVec.extractLsb'_append_eq_right⟩
  have hfield : (responseWord r).extractLsb' 16 2 = statusCode r.status := BitVec.extractLsb'_append_eq_left
  rw [hfield]
  cases r.status <;> rfl

end Sys2Proof.Machine

/-! PROOFS. 40_execution_rmw.md: acceptance (O7, O9), one transaction's end (O24, O25, O27), the bank of a handle (O46),
the lost update (O30), waiting (O33, O34), no sound state stops (O39), the update formula (O48, O49) and the transition
table (O53). -/

namespace Sys2Proof.Machine

/-! ## Acceptance -/

/-- The host's word runs the command it decodes to (R101). -/
theorem engineMove_issue {s : State} {w : CmdWord} {i : Instr} {rest : List HostReq} (hp : s.phase = .idle)
    (hr : s.hostIn = .issue w :: rest) (hd : decode s.params w = .cmd i) :
    engineMove s = exec i { s with hostIn := rest } := by
  simp [engineMove, hostMove, hp, hr, hd]

/-- A word that does not decode is refused (R163). -/
theorem engineMove_issue_illegal {s : State} {w : CmdWord} {why : Illegal} {rest : List HostReq} (hp : s.phase = .idle)
    (hr : s.hostIn = .issue w :: rest) (hd : decode s.params w = .illegal why) :
    engineMove s = .next (({ s with hostIn := rest }).respond illegalResponse) := by
  simp [engineMove, hostMove, hp, hr, hd]

/-- A command that the gate does not permit is refused (R162). -/
theorem exec_gated {i : Instr} {s : State} (hp : s.phase = .idle) (hw : i.wf s.params = true)
    (ht : s.tag i.slot ≠ requiredTag i.op) : exec i s = .next (s.respond gatedResponse) := by
  rw [exec_idle i hp]
  rcases s.accept_cases i with ⟨hw', -⟩ | ⟨-, -, e⟩ | ⟨-, ha, -⟩
  · rw [hw] at hw'
    cases hw'
  · rw [e]
  · exact absurd (by simpa [permitted] using ha) ht

/-- A plan has a transaction at exactly the indices below its length (R102). -/
theorem planOf_getElem?_ne_none {i : Instr} {p : Params} {dev : DevAddr} {cur : Latch} {n : Nat} :
    (planOf i p dev cur)[n]? ≠ none ↔ n < planLength i.op p.mode := by
  simp [planOf_length]

/-- Acceptance presents the first transaction of the plan (R101). -/
theorem State.outstanding_begin {s : State} {i : Instr} (hw : i.wf s.params = true) :
    (s.begin (encode i)).outstanding = (planOf i s.params s.devAddr (s.begin (encode i)).cur)[0]? :=
  State.outstanding_eq (s := s.begin (encode i)) rfl rfl hw

/-- Settles O7: the turn is the host's, and its word decodes to the command it encodes. -/
theorem stepRunsIssuedCommand : Obligations.StepRunsIssuedCommand := by
  intro s i rest hturn hp hr hw
  rw [step_engine hturn]
  exact engineMove_issue (s := { s with envIn := s.envIn.tail }) hp hr (decode_encode hw)

/-- Settles O9: one case per check of R101. -/
theorem acceptanceOfAnyWord : Obligations.AcceptanceOfAnyWord := by
  intro s w rest hturn hp hr
  rw [step_engine hturn]
  cases hd : decode s.params w with
  | illegal why =>
    exact ⟨_, engineMove_issue_illegal (s := { s with envIn := s.envIn.tail }) hp hr hd, rfl⟩
  | cmd i =>
    have hw := wf_of_decode hd
    rw [engineMove_issue (s := { s with envIn := s.envIn.tail }) hp hr hd]
    by_cases ht : s.tag i.slot = requiredTag i.op
    · have hout := State.outstanding_begin (s := { s with hostIn := rest, envIn := s.envIn.tail }) hw
      obtain ⟨hpos, -⟩ := planLength_pos i.op s.params.mode
      refine ⟨_, exec_start hp hw ht, (if_neg (not_not.2 ht)).mpr ?_⟩
      exact ⟨rfl, (eq_encode_of_decode hd).symm, rfl, rfl, rfl, hout, hout.trans_ne (planOf_getElem?_ne_none.2 hpos),
        rfl, rfl, rfl, rfl, rfl⟩
    · exact ⟨_, exec_gated hp hw ht, (if_pos ht).mpr rfl⟩

/-! ## The end of one transaction -/

/-- `step` advances to the next transaction of the plan, whose bytes follow from `CUR` as it is now (R104). -/
theorem State.outstanding_advance {s : State} {i : Instr} (hp : s.phase = .busy) (ho : s.opreg = encode i)
    (hw : i.wf s.params = true) (hl : s.stepNo.toNat + 1 < planLength i.op s.params.mode) :
    s.advance.outstanding = (planOf i s.params s.devAddr s.cur)[s.stepNo.toNat + 1]? := by
  obtain ⟨-, h4⟩ := planLength_pos i.op s.params.mode
  rw [State.outstanding_eq (s := s.advance) hp ho hw, State.advance_stepNo, stepNo_succ hl h4]
  rfl

/-- The tags after the last transaction of `i` completed `Ok` (R104). -/
theorem State.tag_finish_transact (s : State) (q : Request) (i : Instr) (f : Latch → Word) (k : Slot) :
    ((s.transact q).finish i.slot (commitTag i.op) f).tag k =
      if k = i.slot then (commitTag i.op).getD (s.tag k) else s.tag k := by
  have htag : ∀ k', (s.transact q).tag k' = s.tag k' := State.tag_congr (s.transact_tags q)
  rw [State.tag_finish, htag, htag]
  split_ifs with hk
  · rw [hk]
  · rfl

/-- Settles O24: the two ways of R104, by whether the plan goes on. -/
theorem transactionSucceeds : Obligations.TransactionSucceeds := by
  intro s i q rest hp ho hw hq hb cur
  rw [State.outstanding_eq hp ho hw] at hq
  have hcur : (({ s with busIn := rest } : State).transact q).cur = cur := by
    cases q with
    | rd d a => rfl
    | wr d a v => exact State.transact_wr_cur _ d a v
  by_cases hl : s.stepNo.toNat + 1 < planLength i.op s.params.mode
  · obtain ⟨-, h4⟩ := planLength_pos i.op s.params.mode
    have hout : (({ s with busIn := rest } : State).transact q).advance.outstanding =
        (planOf i s.params s.devAddr cur)[s.stepNo.toNat + 1]? := by
      rw [State.outstanding_advance (i := i) (by simpa using hp) (by simpa using ho) (by simpa using hw)
        (by simpa using hl), hcur]
      simp
    refine ⟨_, exec_more hp ho hq hb hl, by simp, by simp [Claims.SameFrame], ?_⟩
    rw [if_pos hl]
    exact ⟨by simpa using hp, by simp, by simpa using stepNo_succ hl h4, hcur, rfl, hout,
      hout.trans_ne (planOf_getElem?_ne_none.2 hl), by simp, by simp⟩
  · refine ⟨_, exec_last hp ho hq hb hl, by simp, by simp [Claims.SameFrame], ?_⟩
    rw [if_neg hl]
    refine ⟨rfl, by simp, fun k => ?_, ?_⟩
    · rw [State.tag_finish_transact]
      cases i with
      | cfgOut _ | cfgIn _ => rfl
      | write _ _ | read _ | rdLatch _ | setPull _ _ | intEn _ _ | intMode _ _ | intDef _ _ => exact ite_self _
    · rw [State.finish_output, hcur]
      cases i <;> rfl

/-- The transport's answers play no part in what a write does to the register space. -/
theorem State.busWrite_mem_of_busIn (s : State) (answers : List Completion) (d : DevAddr) (a : RegAddr) (v : Byte) :
    (({ s with busIn := answers }).busWrite d a v).mem = (s.busWrite d a v).mem := by
  unfold State.busWrite
  cases coupledLatch s.params a <;> rfl

/-- Settles O25: the failed write landed or did not (R51), and the exceptional end touches no register. -/
theorem transactionFails : Obligations.TransactionFails := by
  intro s i q e landed rest hp ho hw hq hb
  rw [State.outstanding_eq hp ho hw] at hq
  refine ⟨_, exec_err hp ho hq hb, rfl, rfl, by simp, by simp, by simp, by simp, by simp [Claims.SameFrame], ?_⟩
  cases q with
  | rd d a => exact .inl rfl
  | wr d a v =>
    cases landed with
    | false => exact .inl rfl
    | true => exact .inr ⟨d, a, v, rfl, s.busWrite_mem_of_busIn rest d a v⟩

/-- Settles O27: a failed read has no effect on the register space, and neither has the exceptional end. -/
theorem failedReadChangesNoRegister : Obligations.FailedReadChangesNoRegister := by
  intro s i d a e landed rest hp ho hw hq hb
  rw [State.outstanding_eq hp ho hw] at hq
  exact ⟨_, exec_err hp ho hq hb, rfl, rfl⟩

/-! ## The bank of a handle -/

/-- On a `Port` or `Pin` handle the plan of a command with a masked update is one read and one write, of the command's
kind and made with its operand (R102, R107). -/
theorem planOf_of_maskedKind {i : Instr} {p : Params} {k : RegKind} {val : Word} (hm : p.mode ≠ .chip)
    (hk : Claims.maskedKind i p = some (k, val)) (dev : DevAddr) (cur : Latch) :
    planOf i p dev cur =
      [.rd dev (addr p.regs k (slotBank i.slot)),
       .wr dev (addr p.regs k (slotBank i.slot)) (newByte p.mode i.slot val cur.lo)] := by
  rw [← maskedPlan_byte k p dev i.slot val cur hm]
  cases i with
  | read _ | rdLatch _ => cases hk
  | write _ _ =>
    cases hk
    exact planWrite_byte p dev _ _ cur hm
  | cfgOut _ | cfgIn _ | setPull _ _ | intEn _ _ | intMode _ _ | intDef _ _ =>
    cases hk
    rfl

theorem planLength_of_maskedKind {i : Instr} {p : Params} {kv : RegKind × Word} (hm : p.mode ≠ .chip)
    (hk : Claims.maskedKind i p = some kv) : planLength i.op p.mode = 2 := by
  rw [← planOf_length i p 0 ⟨0, 0⟩, planOf_of_maskedKind hm hk]
  rfl

/-- The other commands are the two reads (R126, R135). -/
theorem planOf_of_not_masked {i : Instr} {p : Params} (hk : Claims.maskedKind i p = none) (dev : DevAddr)
    (cur : Latch) : planOf i p dev cur = readPlan (accessedKind i.op) p dev i.slot := by
  cases i with
  | read _ | rdLatch _ => rfl
  | _ => cases hk

/-- On a `Port` or `Pin` handle every transaction of a plan names a register of the slot's bank (R105). -/
theorem requestAddr_of_mem_planOf_byte {i : Instr} {p : Params} {dev : DevAddr} {cur : Latch} {q : Request}
    (hm : p.mode ≠ .chip) (h : q ∈ planOf i p dev cur) :
    ∃ k, Claims.requestAddr q = addr p.regs k (slotBank i.slot) := by
  cases hk : Claims.maskedKind i p with
  | none =>
    rw [planOf_of_not_masked hk, readPlan_byte _ _ _ _ hm, List.mem_singleton] at h
    exact ⟨_, congrArg Claims.requestAddr h⟩
  | some kv =>
    obtain ⟨k, val⟩ := kv
    rw [planOf_of_maskedKind hm hk] at h
    simp only [List.mem_cons, List.not_mem_nil, or_false] at h
    rcases h with rfl | rfl <;> exact ⟨k, rfl⟩

/-- Settles O46: the outstanding transaction is one of its command's plan, whose slot is the `SEL` field of `opreg`. -/
theorem handleStaysInItsBank : Obligations.HandleStaysInItsBank := by
  intro s q hm hq
  obtain ⟨-, i, hd, hi⟩ := s.outstanding_cases hq
  obtain ⟨-, hsel, -, -⟩ := decode_cmd_iff.1 hd
  rw [hsel]
  exact requestAddr_of_mem_planOf_byte hm (List.mem_of_getElem? hi)

/-! ## The lost update -/

/-- A command with a masked update returns no data (R82). -/
theorem resultOf_of_maskedKind {i : Instr} {p : Params} {kv : RegKind × Word} (hk : Claims.maskedKind i p = some kv) :
    resultOf i.op = fun _ _ => noResult := by
  cases i with
  | read _ | rdLatch _ => cases hk
  | _ => rfl

section
variable {s : State} {i : Instr} {k : RegKind} {val : Word} {rest : List Completion} (hp : s.phase = .busy)
  (ho : s.opreg = encode i) (hm : s.params.mode ≠ .chip) (hk : Claims.maskedKind i s.params = some (k, val))
  (hb : s.busIn = .ok :: rest)
include hp ho hm hk hb

/-- The read of a `Port` or `Pin` masked update completes `Ok` (R102, R104). -/
theorem exec_masked_read (h0 : s.stepNo = 0) :
    exec i s = .next (({ s with busIn := rest }).transact
      (.rd s.devAddr (addr s.params.regs k (slotBank i.slot)))).advance :=
  exec_more hp ho (by rw [planOf_of_maskedKind hm hk, h0]; rfl) hb
    (by rw [planLength_of_maskedKind hm hk, h0]; exact Nat.one_lt_two)

/-- The write of a `Port` or `Pin` masked update completes `Ok`, its byte made from the byte in `CUR` (R102, R104). -/
theorem exec_masked_write (h1 : s.stepNo = 1) :
    exec i s = .next ((({ s with busIn := rest }).transact (.wr s.devAddr (addr s.params.regs k (slotBank i.slot))
      (newByte s.params.mode i.slot val s.cur.lo))).finish i.slot (commitTag i.op) noResult) := by
  have hres : resultOf i.op s.params.mode i.slot = noResult := by rw [resultOf_of_maskedKind hk]
  rw [← hres]
  exact exec_last hp ho (by rw [planOf_of_maskedKind hm hk, h1]; rfl) hb
    (by rw [planLength_of_maskedKind hm hk, h1]; exact Nat.lt_irrefl 2)

end

/-- Settles O30: the byte read is in `CUR`, which the other agent's write does not touch, and the write is made from
`CUR`. -/
theorem lostUpdate : Obligations.LostUpdate := by
  intro s i k val y rest hmem hp hm ho hw h0 hk hb a mask des
  let u : State := (({ s with busIn := .ok :: rest }).transact (.rd s.devAddr a)).advance
  have h1 : u.stepNo = 1 := congrArg (· + 1) h0
  have hlo : u.cur.lo = s.reg s.devAddr a := by
    simp only [u, State.advance_cur, State.transact_rd_cur, latchByte, h0, if_true]
    rfl
  have hmem' : (u.setReg s.devAddr a y).mem.wf = true := State.setReg_wf (s := u) hmem s.devAddr a y
  refine ⟨u, _, exec_masked_read hp ho hm hk hb h0,
    exec_masked_write (s := u.setReg s.devAddr a y) (rest := rest) hp ho hm hk rfl h1, rfl, ?_⟩
  rw [State.reg_finish, State.setReg_cur, hlo]
  exact State.reg_busWrite_same (s := { u.setReg s.devAddr a y with busIn := rest }) hmem' _ _ _

/-! ## Waiting -/

/-- The engine's moves while `Busy` leave the host's queue alone (R100). -/
theorem EngineStep.hostIn_eq_of_busy {s t : State} (hst : EngineStep s t) (hp : s.phase = .busy) :
    t.hostIn = s.hostIn := by
  cases hst with
  | wait => rfl
  | reset _ _ hi | illegal _ _ _ hi | gated _ _ _ hi | start _ _ _ hi =>
    rw [hp] at hi
    cases hi
  | fail | more | last => simp

/-- A command ends, and the engine is `Idle` again, by an answer of the transport only (R112). -/
theorem EngineStep.answered_of_busy_idle {s t : State} (hst : EngineStep s t) (hp : s.phase = .busy)
    (ht : t.phase = .idle) : s.busIn ≠ [] := by
  cases hst with
  | wait =>
    rw [State.quiet_phase, hp] at ht
    cases ht
  | reset _ _ hi | illegal _ _ _ hi | gated _ _ _ hi | start _ _ _ hi =>
    rw [hp] at hi
    cases hi
  | fail _ _ _ _ _ _ hb | more _ _ _ _ hb | last _ _ _ _ hb =>
    rw [hb]
    exact List.cons_ne_nil _ _

/-- Settles O33: the engine's moves while `Busy` take no request, and `exec` waits when `opreg` holds another
command. -/
theorem busyAcceptsNothing : Obligations.BusyAcceptsNothing := by
  refine ⟨fun s t hp hst => ?_, fun s i hp ho => exec_busy_other hp ho⟩
  rcases step_engineStep hst with ⟨d, a, v, rest, -, rfl⟩ | hm
  · rfl
  · exact hm.hostIn_eq_of_busy hp

/-- A sound `Busy` state runs a command and has a transaction outstanding (R26, R27). -/
theorem State.Sound.running {s : State} (h : s.Sound) (hp : s.phase = .busy) : ∃ i q, s.Running i q := by
  obtain ⟨-, -, -, hb⟩ := h
  cases hd : decode s.params s.opreg with
  | illegal why => simp [State.busyCoherent, hp, hd] at hb
  | cmd i =>
    obtain ⟨-, hl⟩ := (State.busyCoherent_iff hp hd).1 hb
    obtain ⟨q, hq⟩ := Option.ne_none_iff_exists'.1 (planOf_getElem?_ne_none.2 hl)
    exact ⟨i, q, hp, hd, (State.outstanding_eq hp (eq_encode_of_decode hd) (wf_of_decode hd)).trans hq⟩

/-- The transaction outstanding is the one at `step` in the command's plan (R27). -/
theorem State.Running.planned {s : State} {i : Instr} {q : Request} (h : s.Running i q) :
    (planOf i s.params s.devAddr s.cur)[s.stepNo.toNat]? = some q := by
  rw [← State.outstanding_eq h.busy h.opreg_eq (wf_of_decode h.decodes)]
  exact h.outstanding

/-- With no answer to come a step leaves a sound `Busy` state as it was (R112). -/
theorem step_wait {s : State} (h : s.Sound) (hp : s.phase = .busy) (hb : s.busIn = []) (he : s.envIn = []) :
    step s = .next s.quiet := by
  obtain ⟨i, q, hrun⟩ := h.running hp
  have hturn : step s = engineMove s := by simp [step, agentsMove, he]
  rw [hturn, engineMove_busy hp hrun.decodes]
  exact exec_wait hp hrun.opreg_eq hrun.planned hb

/-- The first of the steps of a run. -/
theorem run_succ_of_step {s t : State} (h : step s = .next t) (n : Nat) : core.run (n + 1) s = core.run n t := by
  have hs : core.step s = .next t := h
  simp only [Host.Core.run, hs]

/-- Settles O34: a waiting step gives a state that waits again, so by induction on the number of steps; of the moves
that leave `Busy` each takes an answer. -/
theorem unansweredTransactionHangs : Obligations.UnansweredTransactionHangs := by
  refine ⟨fun s n h hp hb he => ?_, fun s t hp hst ht => ?_⟩
  · induction n generalizing s with
    | zero => exact run_succ_of_step (step_wait h hp hb he) 0
    | succ n ih => exact (run_succ_of_step (step_wait h hp hb he) (n + 1)).trans (ih s.quiet h hp hb he)
  · rcases step_engineStep hst with ⟨d, a, v, rest, -, rfl⟩ | hm
    · rw [State.quiet_phase, State.setReg_phase, hp] at ht
      cases ht
    · exact hm.answered_of_busy_idle hp ht

/-! ## No sound state stops -/

/-- An outstanding transaction can wait, fail or complete, and each has a step (R113; log entry 11). -/
theorem State.Running.exec_next {s : State} {i : Instr} {q : Request} (hrun : s.Running i q) :
    ∃ t, exec i s = .next t := by
  cases hb : s.busIn with
  | nil => exact ⟨_, exec_wait hrun.busy hrun.opreg_eq hrun.planned hb⟩
  | cons c rest =>
    cases c with
    | err e landed => exact ⟨_, exec_err hrun.busy hrun.opreg_eq hrun.planned hb⟩
    | ok =>
      by_cases hl : s.stepNo.toNat + 1 < planLength i.op s.params.mode
      · exact ⟨_, exec_more hrun.busy hrun.opreg_eq hrun.planned hb hl⟩
      · exact ⟨_, exec_last hrun.busy hrun.opreg_eq hrun.planned hb hl⟩

/-- Different commands have different words (R70). -/
theorem encode_injective : Function.Injective encode := by
  intro i j h
  simpa [decodeRow_encode] using congrArg decodeRow h

/-- A command that is not the one in `opreg` is accepted, refused, or waits (R100, R101; log entry 18). -/
theorem State.Sound.exec_next {s : State} (h : s.Sound) (i : Instr) : ∃ t, exec i s = .next t := by
  cases hp : s.phase with
  | idle => exact ⟨_, exec_idle i hp⟩
  | busy =>
    by_cases ho : s.opreg = encode i
    · obtain ⟨j, q, hrun⟩ := h.running hp
      rw [encode_injective (ho.symm.trans hrun.opreg_eq)]
      exact hrun.exec_next
    · exact ⟨_, exec_busy_other hp ho⟩

theorem State.Sound.engineMove_next {s : State} (h : s.Sound) : ∃ t, engineMove s = .next t := by
  cases hp : s.phase with
  | busy =>
    obtain ⟨i, q, hrun⟩ := h.running hp
    rw [engineMove_busy hp hrun.decodes]
    exact h.exec_next i
  | idle =>
    cases hr : s.hostIn with
    | nil => exact ⟨s.quiet, by simp [engineMove, hostMove, hp, hr]⟩
    | cons r rest =>
      cases r with
      | reset dev => exact ⟨({ s with hostIn := rest }).resetEngine dev, by simp [engineMove, hostMove, hp, hr]⟩
      | issue w =>
        cases hd : decode s.params w with
        | illegal why => exact ⟨_, engineMove_issue_illegal hp hr hd⟩
        | cmd i => exact ⟨_, (engineMove_issue hp hr hd).trans (exec_idle i hp)⟩

/-- Before a step either an environment write stands first, and it is the step, or it is the engine's turn. -/
theorem step_envWrite_or_engineTurn (s : State) :
    (∃ d a v rest, s.envIn = .write d a v :: rest ∧
      step s = .next (({ s with envIn := rest }).setReg d a v).quiet) ∨
    (Claims.EngineTurn s ∧ step s = engineMove { s with envIn := s.envIn.tail }) := by
  by_cases hturn : Claims.EngineTurn s
  · exact .inr ⟨hturn, step_engine hturn⟩
  · simp only [Claims.EngineTurn, not_forall, not_not] at hturn
    obtain ⟨d, a, v, rest, he⟩ := hturn
    exact .inl ⟨d, a, v, rest, he, by simp [step, agentsMove, he]⟩

/-- Settles O39: the two faults are states that are not sound, and every other case answers. -/
theorem soundStatesNeverStop : Obligations.SoundStatesNeverStop := by
  refine fun s h => ⟨?_, h.exec_next⟩
  rcases step_envWrite_or_engineTurn s with ⟨d, a, v, rest, -, hst⟩ | ⟨-, hst⟩
  · exact ⟨_, hst⟩
  · rw [hst]
    exact State.Sound.engineMove_next (s := { s with envIn := s.envIn.tail }) h

/-! ## The update formula -/

/-- The update bit by bit: the operand's bit inside the mask, the old bit outside (R106). -/
theorem maskedUpdate_getLsbD {n : Nat} (cur mask des : BitVec n) (j : Nat) :
    (maskedUpdate cur mask des).getLsbD j = if mask.getLsbD j then des.getLsbD j else cur.getLsbD j := by
  by_cases hj : j < n
  · simp only [maskedUpdate, BitVec.getLsbD_or, BitVec.getLsbD_and, BitVec.getLsbD_not, hj, decide_true, Bool.true_and]
    cases mask.getLsbD j <;> simp
  · simp [BitVec.getLsbD_of_ge _ j (Nat.le_of_not_lt hj)]

/-- Inside the mask the operand stands already, outside it nothing changes. -/
theorem maskedUpdate_idempotent {n : Nat} (cur mask des : BitVec n) :
    maskedUpdate (maskedUpdate cur mask des) mask des = maskedUpdate cur mask des := by
  refine BitVec.eq_of_getLsbD_eq fun j _ => ?_
  simp only [maskedUpdate_getLsbD]
  split_ifs <;> rfl

/-- With every bit in the mask the old value plays no part. -/
theorem maskedUpdate_allOnes {n : Nat} (cur des : BitVec n) : maskedUpdate cur (BitVec.allOnes n) des = des := by
  simp [maskedUpdate]

theorem lowByte_getLsbD (v : Word) {j : Nat} (hj : j < 8) : (lowByte v).getLsbD j = v.getLsbD j := by
  simp [lowByte, hj]

/-- The update is bitwise, so its low byte is the update of the low bytes (R105). -/
theorem lowByte_maskedUpdate (cur mask des : Word) :
    lowByte (maskedUpdate cur mask des) = maskedUpdate (lowByte cur) (lowByte mask) (lowByte des) := by
  refine BitVec.eq_of_getLsbD_eq fun j hj => ?_
  simp only [maskedUpdate_getLsbD, lowByte_getLsbD _ hj]

@[simp] theorem Latch.word_ofWord (v : Word) : (Latch.ofWord v).word = v := joinBytes_split v

/-- Settles O49: in every mode both updates are `maskedUpdate` with a mask and an operand that do not depend on the old
value. -/
theorem maskedUpdateIdempotent : Obligations.MaskedUpdateIdempotent := by
  refine fun m s v => ⟨fun c => maskedUpdate_idempotent _ _ _, fun c => ?_⟩
  rw [newWord, Latch.word_ofWord]
  exact maskedUpdate_idempotent _ _ _

theorem slotBit_lt (s : Slot) : slotBit s < 8 := (s.extractLsb' 0 3).isLt

/-- The low byte of the `Pin` mask has the slot's bit only (R105). -/
theorem scopeMask_pin_getLsbD (s : Slot) {j : Nat} (hj : j < 8) :
    (lowByte (scopeMask .pin s)).getLsbD j = decide (j = slotBit s) := by
  have hone : scopeMask .pin s = BitVec.twoPow 16 (slotBit s) := rfl
  rw [lowByte_getLsbD _ hj, hone, BitVec.getLsbD_twoPow]
  simp [(slotBit_lt s).trans (by decide : 8 < 16), eq_comm]

/-- The `Pin` operand's bit stands at the slot's bit (R105). -/
theorem scopePlace_pin_getLsbD (s : Slot) (v : Word) :
    (lowByte (scopePlace .pin s v)).getLsbD (slotBit s) = v.getLsbD 0 := by
  have h := slotBit_lt s
  rw [lowByte_getLsbD _ h, scopePlace, BitVec.getLsbD_shiftLeft]
  simp [h.trans (by decide : 8 < 16)]

/-- The `Port` operand is the operand's byte (R105). -/
theorem lowByte_scopePlace_port (s : Slot) (v : Word) : lowByte (scopePlace .port s v) = lowByte v :=
  (BitVec.extractLsb'_and ..).trans BitVec.and_allOnes

/-- Settles O48: the `Chip` and `Port` masks have every bit, the `Pin` mask the slot's. -/
theorem maskedUpdateByMode : Obligations.MaskedUpdateByMode := by
  refine fun s v c => ⟨fun m => rfl, fun m => ?low, maskedUpdate_allOnes c.word v, ?port, fun j hj => ?pin⟩
  case low =>
    rw [newWord, lowByte_maskedUpdate, Latch.word, lowByte_joinBytes]
    rfl
  case port => exact (maskedUpdate_allOnes c.lo _).trans (lowByte_scopePlace_port s v)
  case pin =>
    rw [newByte, maskedUpdate_getLsbD, scopeMask_pin_getLsbD s hj]
    by_cases h : j = slotBit s
    · simp [h, scopePlace_pin_getLsbD]
    · simp [h]

/-! ## The transition table -/

/-- The table's state of an `Idle` engine holds no command. -/
theorem engineOf_idle {s : State} (hp : s.phase = .idle) :
    Claims.engineOf s = { devAddr := s.devAddr, tag := s.tag, phase := .idle } := by
  simp [Claims.engineOf, hp]

/-- The table's state of a `Busy` engine holds the command in `opreg`. -/
theorem engineOf_busy {s : State} {i : Instr} (hp : s.phase = .busy) (hd : decode s.params s.opreg = .cmd i) :
    Claims.engineOf s = { devAddr := s.devAddr, tag := s.tag, phase := .busy i s.stepNo.toNat s.cur } := by
  simp [Claims.engineOf, hp, hd]

/-- The last transaction of a masked plan is a write (R102). -/
theorem maskedPlan_getLast? (k : RegKind) (p : Params) (dev : DevAddr) (s : Slot) (val : Word) (cur : Latch) :
    ∃ a v, (maskedPlan k p dev s val cur).getLast? = some (.wr dev a v) := by
  by_cases hm : p.mode = .chip
  · exact ⟨_, _, congrArg List.getLast? (maskedPlan_word k p dev s val cur hm)⟩
  · exact ⟨_, _, congrArg List.getLast? (maskedPlan_byte k p dev s val cur hm)⟩

/-- The last transaction of a `WRITE` is a write in every mode (R102, R125). -/
theorem planWrite_getLast? (p : Params) (dev : DevAddr) (s : Slot) (val : Word) (cur : Latch) :
    ∃ a v, (planWrite p dev s val cur).getLast? = some (.wr dev a v) := by
  by_cases hm : p.mode = .chip
  · exact ⟨_, _, congrArg List.getLast? (planWrite_word p dev s val cur hm)⟩
  · rw [planWrite_byte p dev s val cur hm]
    exact maskedPlan_getLast? ..

/-- A read command only reads (R102). -/
theorem readPlan_getLast? (k : RegKind) (p : Params) (dev : DevAddr) (s : Slot) :
    ∃ a, (readPlan k p dev s).getLast? = some (.rd dev a) := by
  by_cases hm : p.mode = .chip
  · exact ⟨_, congrArg List.getLast? (readPlan_word k p dev s hm)⟩
  · exact ⟨_, congrArg List.getLast? (readPlan_byte k p dev s hm)⟩

/-- A plan that ends with a read is that of a command that commits nothing and returns what it read; every other plan
ends with a write and returns no data (R102, R104). -/
theorem planOf_getLast? (i : Instr) (p : Params) (dev : DevAddr) (cur : Latch) :
    ((∃ a, (planOf i p dev cur).getLast? = some (.rd dev a)) ∧ commitTag i.op = none ∧
      resultOf i.op = extractResult) ∨
    ((∃ a v, (planOf i p dev cur).getLast? = some (.wr dev a v)) ∧ resultOf i.op = fun _ _ => noResult) := by
  cases i with
  | read _ | rdLatch _ => exact .inl ⟨readPlan_getLast? .., rfl, rfl⟩
  | write _ _ => exact .inr ⟨planWrite_getLast? .., rfl⟩
  | cfgOut _ | cfgIn _ | setPull _ _ | intEn _ _ | intMode _ _ | intDef _ _ =>
    exact .inr ⟨maskedPlan_getLast? .., rfl⟩

/-- When no transaction follows, the outstanding one is the last of the plan. -/
theorem State.Running.planned_last {s : State} {i : Instr} {q : Request} (hrun : s.Running i q)
    (hl : ¬ s.stepNo.toNat + 1 < planLength i.op s.params.mode) :
    s.stepNo.toNat + 1 = planLength i.op s.params.mode ∧
      (planOf i s.params s.devAddr s.cur).getLast? = some q := by
  have hlt : s.stepNo.toNat < planLength i.op s.params.mode :=
    planOf_getElem?_ne_none.1 (hrun.planned ▸ Option.some_ne_none q)
  have hlen : s.stepNo.toNat + 1 = planLength i.op s.params.mode := by omega
  refine ⟨hlen, ?_⟩
  rw [List.getLast?_eq_getElem?, planOf_length, ← hlen]
  exact hrun.planned

/-- A row of the table for the label on offer takes `s` to `t`. -/
def TableStep (s t : State) : Prop :=
  ∃ l, Claims.Offered s l ∧ Claims.Row s.params (Claims.engineOf s) l (Claims.engineOf t) t.output

/-- `CUR` after a read, by the number of the transaction as R113's table has it. -/
theorem latchByte_eq (k : BitVec 2) (x : Byte) (cur : Latch) :
    latchByte k x cur = if k.toNat = 0 then { cur with lo := x } else { cur with hi := x } := by
  have hk : k = 0 ↔ k.toNat = 0 := BitVec.toNat_eq
  simp only [latchByte, hk]

/-- The rows of R104 for a transaction that is not the last. -/
theorem TableStep.more {s : State} {i : Instr} {q : Request} {rest : List Completion} (hrun : s.Running i q)
    (hb : s.busIn = .ok :: rest) (hl : s.stepNo.toNat + 1 < planLength i.op s.params.mode) :
    TableStep s (({ s with busIn := rest }).transact q).advance := by
  obtain ⟨-, h4⟩ := planLength_pos i.op s.params.mode
  have ht : Claims.engineOf (({ s with busIn := rest }).transact q).advance =
      { devAddr := s.devAddr, tag := s.tag,
        phase := .busy i (s.stepNo.toNat + 1) (({ s with busIn := rest }).transact q).cur } := by
    rw [engineOf_busy (i := i) (by simpa using hrun.busy) (by simpa using hrun.decodes), State.advance_stepNo,
      State.transact_stepNo, stepNo_succ hl h4, State.advance_devAddr, State.transact_devAddr, State.advance_cur]
    congr 1
    exact funext (State.tag_congr (by simp))
  rw [TableStep, engineOf_busy hrun.busy hrun.decodes, ht]
  cases q with
  | rd d a =>
    exact ⟨.completeRead (s.reg d a), ⟨d, a, rest, hb, hrun.outstanding, rfl⟩,
      .readMore _ i _ s.cur _ d a _ rfl hrun.planned (latchByte_eq ..) hl⟩
  | wr d a v =>
    rw [State.transact_wr_cur]
    exact ⟨.completeWrite, ⟨rest, hb⟩, .writeMore _ i _ s.cur d a v rfl hrun.planned hl⟩

/-- The rows of R104 for the last transaction: a read ends a read command, a write any other. -/
theorem TableStep.last {s : State} {i : Instr} {q : Request} {rest : List Completion} (hrun : s.Running i q)
    (hb : s.busIn = .ok :: rest) (hl : ¬ s.stepNo.toNat + 1 < planLength i.op s.params.mode) :
    TableStep s ((({ s with busIn := rest }).transact q).finish i.slot (commitTag i.op)
      (resultOf i.op s.params.mode i.slot)) := by
  obtain ⟨hlen, hlast⟩ := hrun.planned_last hl
  have ht : Claims.engineOf ((({ s with busIn := rest }).transact q).finish i.slot (commitTag i.op)
      (resultOf i.op s.params.mode i.slot)) =
      { devAddr := s.devAddr, phase := .idle,
        tag := fun k => if k = i.slot then (commitTag i.op).getD (s.tag k) else s.tag k } := by
    rw [engineOf_idle (by rfl), State.finish_devAddr, State.transact_devAddr]
    congr 1
    exact funext (State.tag_finish_transact _ q i _)
  rw [TableStep, engineOf_busy hrun.busy hrun.decodes, ht, State.finish_output]
  rcases planOf_getLast? i s.params s.devAddr s.cur with ⟨⟨a, hq⟩, hcommit, hres⟩ | ⟨⟨a, v, hq⟩, hres⟩
  · obtain rfl : q = .rd s.devAddr a := Option.some.inj (hlast.symm.trans hq)
    refine ⟨.completeRead (s.reg s.devAddr a), ⟨s.devAddr, a, rest, hb, hrun.outstanding, rfl⟩, ?_⟩
    rw [hcommit, hres]
    simp only [Option.getD_none, ite_self]
    exact .readLast _ i _ s.cur _ s.devAddr a _ rfl hrun.planned (latchByte_eq ..) hlen
  · obtain rfl : q = .wr s.devAddr a v := Option.some.inj (hlast.symm.trans hq)
    rw [hres]
    exact ⟨.completeWrite, ⟨rest, hb⟩, .writeLast _ i _ s.cur s.devAddr a v rfl hrun.planned hlen⟩

/-- The row of R190. -/
theorem TableStep.reset {s : State} {dev : DevAddr} {rest : List HostReq} (hp : s.phase = .idle)
    (hr : s.hostIn = .reset dev :: rest) : TableStep s (({ s with hostIn := rest }).resetEngine dev) := by
  have ht : Claims.engineOf (({ s with hostIn := rest }).resetEngine dev) =
      { devAddr := dev, tag := fun _ => .unconfigured, phase := .idle } := by
    rw [engineOf_idle (by rfl), State.resetEngine_devAddr]
    congr 1
    exact funext fun k => State.tag_resetEngine _ k dev
  rw [TableStep, ht]
  exact ⟨.reset dev, ⟨rest, hr⟩, .reset _ dev (by rw [engineOf_idle hp])⟩

/-- The last row of R101: `CUR` is whatever it is at acceptance. -/
theorem TableStep.start {s : State} {w : CmdWord} {i : Instr} {rest : List HostReq} (hp : s.phase = .idle)
    (hr : s.hostIn = .issue w :: rest) (hd : decode s.params w = .cmd i)
    (ha : permitted i.op (s.tag i.slot) = true) :
    TableStep s (({ s with hostIn := rest }).begin (encode i)) := by
  have ht : Claims.engineOf (({ s with hostIn := rest }).begin (encode i)) =
      { devAddr := s.devAddr, tag := s.tag, phase := .busy i 0 (Latch.ofWord (Config.freeCur s.fresh)) } :=
    engineOf_busy (by rfl) (decode_encode (wf_of_decode hd))
  rw [TableStep, ht, engineOf_idle hp]
  exact ⟨.issue w, ⟨rest, hr⟩, .start _ w i _ rfl hd ha⟩

/-- The row of R103. -/
theorem TableStep.fail {s : State} {i : Instr} {q : Request} {e : TErr} {landed : Bool} {rest : List Completion}
    (hrun : s.Running i q) (hb : s.busIn = .err e landed :: rest) :
    TableStep s ((({ s with busIn := rest }).failEffect q landed).raiseBusError e) := by
  have ht : Claims.engineOf ((({ s with busIn := rest }).failEffect q landed).raiseBusError e) =
      { devAddr := s.devAddr, tag := s.tag, phase := .idle } := by
    rw [engineOf_idle (by rfl), State.raiseBusError_devAddr, State.failEffect_devAddr]
    congr 1
    exact funext (State.tag_congr (by simp))
  rw [TableStep, ht, engineOf_busy hrun.busy hrun.decodes]
  exact ⟨.completeErr e, ⟨landed, rest, hb⟩, .fail _ i _ s.cur e rfl⟩

/-- A move of the engine is a step of the table, or it waits and changes nothing the table speaks of (R113; log
entry 11). -/
theorem EngineStep.tableStep {s t : State} (hst : EngineStep s t) :
    (((s.phase = .idle ∧ s.hostIn = []) ∨ (s.phase = .busy ∧ s.busIn = [])) ∧
      Claims.engineOf t = Claims.engineOf s ∧ t.output = none) ∨ TableStep s t := by
  cases hst with
  | wait h => exact .inl ⟨h, rfl, rfl⟩
  | reset dev rest hp hr => exact .inr (.reset hp hr)
  | illegal w rest why hp hr hd => exact .inr ⟨.issue w, ⟨rest, hr⟩, .illegal _ w why (by rw [engineOf_idle hp]) hd⟩
  | gated w rest i hp hr hd ht => exact .inr ⟨.issue w, ⟨rest, hr⟩, .gated _ w i (by rw [engineOf_idle hp]) hd ht⟩
  | start w rest i hp hr hd ha => exact .inr (.start hp hr hd ha)
  | fail i q e landed rest hrun hb => exact .inr (.fail hrun hb)
  | more i q rest hrun hb hl => exact .inr (.more hrun hb hl)
  | last i q rest hrun hb hl => exact .inr (.last hrun hb hl)

/-- Settles O53: the environment's write is no step of the engine; every other step is a move of the engine. -/
theorem stepFollowsTransitionTable : Obligations.StepFollowsTransitionTable := by
  intro s t _ hst
  rcases step_envWrite_or_engineTurn s with ⟨d, a, v, rest, he, hs⟩ | ⟨hturn, hs⟩
  · rw [hs] at hst
    cases hst
    exact .inl ⟨.inl ⟨d, a, v, rest, he⟩, rfl, rfl⟩
  · have hmove : EngineStep { s with envIn := s.envIn.tail } t := .of_engineMove (hs ▸ hst)
    rcases hmove.tableStep with ⟨hwait, hsame⟩ | hrow
    · exact .inl ⟨.inr ⟨hturn, hwait⟩, hsame⟩
    · exact .inr ⟨hturn, hrow⟩

end Sys2Proof.Machine

/-! PROOFS. 41_configure.md: the masked updates from acceptance to response on a `Port` or `Pin` handle and on the
`Chip` handle, `CFG_OUT` and `CFG_IN` among them (O14, O15), and a failed configuration issued again (O28). -/

namespace Sys2Proof.Machine

/-! ## The command in progress, one transaction after the other -/

section
variable (s : State) (q : Request) (rest : List Completion)

/-- The transaction `q`, not the last of its plan, has completed `Ok`; the transport's answers still to come are
`rest` (R104). -/
def State.proceed : State := (({ s with busIn := rest }).transact q).advance

/-- The transaction `q`, the last of the plan of `i`, has completed `Ok`; the transport's answers still to come are
`rest` (R104). -/
def State.conclude (i : Instr) : State :=
  (({ s with busIn := rest }).transact q).finish i.slot (commitTag i.op) (resultOf i.op s.params.mode i.slot)

@[simp] theorem State.proceed_params : (s.proceed q rest).params = s.params := by simp [State.proceed]
@[simp] theorem State.proceed_devAddr : (s.proceed q rest).devAddr = s.devAddr := by simp [State.proceed]
@[simp] theorem State.proceed_tags : (s.proceed q rest).tags = s.tags := by simp [State.proceed]
@[simp] theorem State.proceed_phase : (s.proceed q rest).phase = s.phase := by simp [State.proceed]
@[simp] theorem State.proceed_opreg : (s.proceed q rest).opreg = s.opreg := by simp [State.proceed]
@[simp] theorem State.proceed_stepNo : (s.proceed q rest).stepNo = s.stepNo + 1 := by simp [State.proceed]
@[simp] theorem State.proceed_output : (s.proceed q rest).output = none := rfl
@[simp] theorem State.proceed_issued : (s.proceed q rest).issued = s.issued + 1 := by simp [State.proceed]
@[simp] theorem State.proceed_hostIn : (s.proceed q rest).hostIn = s.hostIn := by simp [State.proceed]
@[simp] theorem State.proceed_busIn : (s.proceed q rest).busIn = rest := by simp [State.proceed]
@[simp] theorem State.proceed_envIn : (s.proceed q rest).envIn = s.envIn := by simp [State.proceed]

@[simp] theorem State.conclude_params (i : Instr) : (s.conclude q rest i).params = s.params := by
  simp [State.conclude]
@[simp] theorem State.conclude_devAddr (i : Instr) : (s.conclude q rest i).devAddr = s.devAddr := by
  simp [State.conclude]
@[simp] theorem State.conclude_phase (i : Instr) : (s.conclude q rest i).phase = .idle := rfl
@[simp] theorem State.conclude_issued (i : Instr) : (s.conclude q rest i).issued = s.issued := by
  simp [State.conclude]
@[simp] theorem State.conclude_hostIn (i : Instr) : (s.conclude q rest i).hostIn = s.hostIn := by
  simp [State.conclude]
@[simp] theorem State.conclude_busIn (i : Instr) : (s.conclude q rest i).busIn = rest := by simp [State.conclude]
@[simp] theorem State.conclude_envIn (i : Instr) : (s.conclude q rest i).envIn = s.envIn := by
  simp [State.conclude]

/-- A command whose transactions left the tags alone writes only the tag of its slot, and only if it commits one
(R104). -/
theorem State.tagsAfter_conclude {s t : State} (htags : t.tags = s.tags) (q : Request) (rest : List Completion)
    (i : Instr) : Claims.TagsAfter s (t.conclude q rest i) i.slot (commitTag i.op) := by
  intro k
  have htag : ∀ k', t.tag k' = s.tag k' := State.tag_congr htags
  rw [State.conclude, State.tag_finish_transact]
  split_ifs with hk
  · rw [hk]
    exact congrArg _ (htag i.slot)
  · exact htag k

end

section
variable (s : State) (rest : List Completion) (d : DevAddr) (a : RegAddr) (v : Byte)

@[simp] theorem State.reg_begin (w : CmdWord) : (s.begin w).reg d a = s.reg d a := rfl

@[simp] theorem State.proceed_rd_mem : (s.proceed (.rd d a) rest).mem = s.mem := rfl
@[simp] theorem State.reg_proceed_rd (d' : DevAddr) (a' : RegAddr) :
    (s.proceed (.rd d a) rest).reg d' a' = s.reg d' a' := rfl
@[simp] theorem State.proceed_rd_cur :
    (s.proceed (.rd d a) rest).cur = latchByte s.stepNo (s.reg d a) s.cur := rfl
@[simp] theorem State.proceed_rd_log :
    (s.proceed (.rd d a) rest).log = s.log ++ [.rd d a (s.reg d a)] := rfl

@[simp] theorem State.proceed_wr_mem : (s.proceed (.wr d a v) rest).mem = (s.busWrite d a v).mem :=
  s.busWrite_mem_of_busIn rest d a v
@[simp] theorem State.proceed_wr_log : (s.proceed (.wr d a v) rest).log = s.log ++ [.wr d a v] := rfl

@[simp] theorem State.conclude_wr_mem (i : Instr) :
    (s.conclude (.wr d a v) rest i).mem = (s.busWrite d a v).mem :=
  (State.finish_mem ..).trans (s.busWrite_mem_of_busIn rest d a v)
@[simp] theorem State.conclude_wr_log (i : Instr) : (s.conclude (.wr d a v) rest i).log = s.log ++ [.wr d a v] :=
  State.finish_log ..

@[simp] theorem State.reg_proceed_wr (d' : DevAddr) (a' : RegAddr) :
    (s.proceed (.wr d a v) rest).reg d' a' = (s.busWrite d a v).reg d' a' :=
  State.reg_congr (s.proceed_wr_mem rest d a v) d' a'
@[simp] theorem State.reg_conclude_wr (i : Instr) (d' : DevAddr) (a' : RegAddr) :
    (s.conclude (.wr d a v) rest i).reg d' a' = (s.busWrite d a v).reg d' a' :=
  State.reg_congr (s.conclude_wr_mem rest d a v i) d' a'

end

section
variable {s : State} {i : Instr} {q : Request} {rest : List Completion}

/-- Accepted, a command has the first transaction of its plan outstanding (R101). -/
theorem State.Running.of_begin (hw : i.wf s.params = true)
    (hq : (planOf i s.params s.devAddr (s.begin (encode i)).cur)[0]? = some q) :
    (s.begin (encode i)).Running i q :=
  ⟨rfl, decode_encode hw, (State.outstanding_begin hw).trans hq⟩

section
variable (h : s.Running i q)
include h

/-- The next transaction of the plan, made from `CUR` as it is now, is outstanding (R104). -/
theorem State.Running.proceed {q' : Request}
    (hq : (planOf i s.params s.devAddr (s.proceed q rest).cur)[s.stepNo.toNat + 1]? = some q') :
    (s.proceed q rest).Running i q' := by
  have hl : s.stepNo.toNat + 1 < planLength i.op s.params.mode :=
    planOf_getElem?_ne_none.1 (hq ▸ Option.some_ne_none q')
  refine ⟨by simpa using h.busy, by simpa using h.decodes, ?_⟩
  rw [State.proceed, State.outstanding_advance (i := i) (by simpa using h.busy) (by simpa using h.opreg_eq)
    (by simpa using wf_of_decode h.decodes) (by simpa using hl)]
  simpa [State.proceed] using hq

theorem State.Running.exec_proceed (hb : s.busIn = .ok :: rest)
    (hl : s.stepNo.toNat + 1 < planLength i.op s.params.mode) : exec i s = .next (s.proceed q rest) :=
  exec_more h.busy h.opreg_eq h.planned hb hl

theorem State.Running.exec_conclude (hb : s.busIn = .ok :: rest)
    (hl : ¬ s.stepNo.toNat + 1 < planLength i.op s.params.mode) : exec i s = .next (s.conclude q rest i) :=
  exec_last h.busy h.opreg_eq h.planned hb hl

end

/-- A command with a masked update ends with `OK` and no data (R82, R104). -/
theorem State.conclude_output_of_maskedKind {p : Params} {kv : RegKind × Word}
    (hk : Claims.maskedKind i p = some kv) : (s.conclude q rest i).output = some (okResponse 0) := by
  rw [State.conclude, State.finish_output, resultOf_of_maskedKind hk]
  rfl

end

/-! ## A masked update on a `Port` or `Pin` handle -/

/-- The whole run: acceptance, one read, and one write of the byte made from the byte read (R102, R105 to R107). -/
theorem maskedByteRun {i : Instr} {k : RegKind} {val : Params → Word}
    (hk : ∀ p, Claims.maskedKind i p = some (k, val p)) :
    Claims.MaskedByteRun i (requiredTag i.op) k val (commitTag i.op) := by
  intro s rest hmem hp hm hw htag hb a old mask des new
  have hplan := planOf_of_maskedKind hm (hk s.params) s.devAddr
  have hlen := planLength_of_maskedKind hm (hk s.params)
  let t₁ := s.begin (encode i)
  let t₂ := t₁.proceed (.rd s.devAddr a) (.ok :: rest)
  have h₁ : t₁.Running i (.rd s.devAddr a) := .of_begin hw (congrArg (·[0]?) (hplan _))
  have h₂ : t₂.Running i (.wr s.devAddr a new) := h₁.proceed (congrArg (·[1]?) (hplan _))
  refine ⟨t₁, t₂, _, exec_start hp hw htag, h₁.exec_proceed hb (by simp [t₁, hlen]),
    h₂.exec_conclude rfl (by simp [t₁, t₂, hlen]), h₁.busy, rfl, h₁.outstanding, h₂.busy, rfl, h₂.outstanding, rfl,
    State.conclude_output_of_maskedKind (hk s.params), ?tags, ?reg, ?latch, ?others, ?log, ?issued, ?busIn, ?frame⟩
  case tags => exact State.tagsAfter_conclude rfl _ _ i
  case reg => exact (State.reg_conclude_wr ..).trans (State.reg_busWrite_same (s := t₂) hmem _ _ _)
  case latch => exact fun l hl => (State.reg_conclude_wr ..).trans (State.reg_busWrite_coupled (s := t₂) hmem _ _ hl)
  case others =>
    intro d a' h
    refine (State.reg_conclude_wr ..).trans (t₂.reg_busWrite_other _ (h.imp_right fun h => h a ?_))
    exact List.mem_singleton_self a
  case log => exact (State.conclude_wr_log ..).trans (by simp [t₁, t₂, old])
  case issued => simp [t₁, t₂]
  case busIn => simp
  case frame => simp [Claims.SameFrame, t₁, t₂]

/-! ## A masked update on the `Chip` handle -/

/-- On the `Chip` handle a masked update writes the operand whatever it read (R102, R106). -/
theorem planOf_of_maskedKind_chip {i : Instr} {p : Params} {k : RegKind} {val : Word} (hm : p.mode = .chip)
    (hw : i.op ≠ .write) (hk : Claims.maskedKind i p = some (k, val)) (dev : DevAddr) (cur : Latch) :
    planOf i p dev cur =
      [.rd dev (addr p.regs k .A), .rd dev (addr p.regs k .B),
       .wr dev (addr p.regs k .A) (lowByte val), .wr dev (addr p.regs k .B) (highByte val)] := by
  have hnew : newWord .chip i.slot val cur = val := maskedUpdate_allOnes cur.word val
  have hplan : planOf i p dev cur = maskedPlan k p dev i.slot val cur := by
    cases i with
    | read _ | rdLatch _ => cases hk
    | write _ _ => exact absurd rfl hw
    | cfgOut _ | cfgIn _ | setPull _ _ | intEn _ _ | intMode _ _ | intDef _ _ =>
      cases hk
      rfl
  rw [hplan, maskedPlan_word k p dev i.slot val cur hm, hnew]

/-- No masked update is about a latch register (R107). -/
theorem kind_ne_olat_of_maskedKind {i : Instr} {p : Params} {k : RegKind} {val : Word}
    (hk : Claims.maskedKind i p = some (k, val)) : k ≠ .olat := by
  rintro rfl
  cases i <;> cases hk

/-- A write of one bank's register of a kind does not reach the other bank's, unless the kind is the latch, which the
mock chip couples (R62). -/
theorem otherBank_not_reached {p : Params} (hv : p.regs.valid = true) {k : RegKind} (hk : k ≠ .olat) {b b' : Bank}
    (h : b' ≠ b) : addr p.regs k b' ≠ addr p.regs k b ∧
      coupledLatch p (addr p.regs k b) ≠ some (addr p.regs k b') := by
  refine ⟨fun e => h (addr_inj hv e).right, fun e => ?_⟩
  obtain ⟨b'', e⟩ := coupledLatch_eq_some e
  exact addr_ne_of_kind_ne hv hk b' b'' e

/-- The two writes of `write16`, the last transactions of the plan of `i`, have completed `Ok`: the low byte of `v` at
`a`, then the high byte at `b` (R53, R104). -/
def State.concludeWord (s : State) (d : DevAddr) (a b : RegAddr) (v : Word) (rest : List Completion) (i : Instr) :
    State :=
  (s.proceed (.wr d a (lowByte v)) (.ok :: rest)).conclude (.wr d b (highByte v)) rest i

section
variable {s : State} (d : DevAddr) (a b : RegAddr) (v : Word) (rest : List Completion) (i : Instr)

/-- The first register keeps its byte unless the second write reaches it. -/
theorem State.reg_concludeWord_first (hm : s.mem.wf = true) (hab : a ≠ b)
    (hlatch : coupledLatch s.params b ≠ some a) : (s.concludeWord d a b v rest i).reg d a = lowByte v := by
  rw [State.concludeWord, State.reg_conclude_wr, State.reg_busWrite_other, State.reg_proceed_wr]
  · exact State.reg_busWrite_same hm d a _
  · exact .inr ⟨hab, by rwa [State.proceed_params]⟩

theorem State.reg_concludeWord_second (hm : s.mem.wf = true) :
    (s.concludeWord d a b v rest i).reg d b = highByte v := by
  rw [State.concludeWord, State.reg_conclude_wr]
  refine State.reg_busWrite_same ?_ d b _
  rw [State.proceed_wr_mem]
  exact State.busWrite_wf hm d a _

/-- A register that neither write reaches is as before. -/
theorem State.reg_concludeWord_other {d' : DevAddr} {a' : RegAddr}
    (h : d' ≠ d ∨ ∀ w ∈ [a, b], a' ≠ w ∧ coupledLatch s.params w ≠ some a') :
    (s.concludeWord d a b v rest i).reg d' a' = s.reg d' a' := by
  rw [State.concludeWord, State.reg_conclude_wr, State.reg_busWrite_other, State.reg_proceed_wr,
    State.reg_busWrite_other]
  · exact h.imp_right fun h => h a (by simp)
  · rw [State.proceed_params]
    exact h.imp_right fun h => h b (by simp)

end

/-- The whole run: acceptance, the reads of both banks, and the writes of both bytes of the operand (R102, R107). -/
theorem maskedWordRun {i : Instr} {k : RegKind} {val : Params → Word} (hwrite : i.op ≠ .write)
    (hk : ∀ p, p.mode = .chip → Claims.maskedKind i p = some (k, val p)) :
    Claims.MaskedWordRun i (requiredTag i.op) k val (commitTag i.op) := by
  intro s rest hmem hv hp hm hw htag hb a b lo hi
  have hkind := hk s.params hm
  have hplan := planOf_of_maskedKind_chip hm hwrite hkind s.devAddr
  have hlen : planLength i.op s.params.mode = 4 := by rw [← planOf_length i s.params s.devAddr s.cur, hplan]; rfl
  obtain ⟨hab, hlatch⟩ := otherBank_not_reached hv (kind_ne_olat_of_maskedKind hkind) (b := .B) (b' := .A) (by decide)
  let t₁ := s.begin (encode i)
  let t₂ := t₁.proceed (.rd s.devAddr a) (.ok :: .ok :: .ok :: rest)
  let t₃ := t₂.proceed (.rd s.devAddr b) (.ok :: .ok :: rest)
  let t₄ := t₃.proceed (.wr s.devAddr a lo) (.ok :: rest)
  have h₁ : t₁.Running i (.rd s.devAddr a) := .of_begin hw (congrArg (·[0]?) (hplan _))
  have h₂ : t₂.Running i (.rd s.devAddr b) := h₁.proceed (congrArg (·[1]?) (hplan _))
  have h₃ : t₃.Running i (.wr s.devAddr a lo) := h₂.proceed (congrArg (·[2]?) (hplan _))
  have h₄ : t₄.Running i (.wr s.devAddr b hi) := h₃.proceed (congrArg (·[3]?) (hplan _))
  refine ⟨t₁, t₂, t₃, t₄, _, exec_start hp hw htag, h₁.exec_proceed hb (by simp [t₁, hlen]),
    h₂.exec_proceed rfl (by simp [t₁, t₂, hlen]), h₃.exec_proceed rfl (by simp [t₁, t₂, t₃, hlen]),
    h₄.exec_conclude (t₃.proceed_busIn ..) (by simp [t₁, t₂, t₃, t₄, hlen]), h₁.outstanding, h₂.outstanding,
    h₃.outstanding, h₄.outstanding, rfl, State.conclude_output_of_maskedKind hkind, ?tags, ?regA, ?regB, ?others, ?log,
    ?issued, ?busIn, ?frame⟩
  case tags => exact State.tagsAfter_conclude (by simp [t₁, t₂, t₃, t₄]) _ _ i
  case regA => exact State.reg_concludeWord_first (s := t₃) _ _ _ _ rest i hmem hab hlatch
  case regB => exact State.reg_concludeWord_second (s := t₃) _ _ _ _ rest i hmem
  case others => exact fun d a' h => State.reg_concludeWord_other (s := t₃) _ _ _ _ rest i h
  case log => exact (State.conclude_wr_log ..).trans (by simp [t₁, t₂, t₃, t₄])
  case issued => simp [t₁, t₂, t₃, t₄]
  case busIn => simp
  case frame => simp [Claims.SameFrame, t₁, t₂, t₃, t₄]

/-! ## The configuration commands -/

/-- Settles O14: both commands are masked updates of `DIR`. -/
theorem configureByteRun : Obligations.ConfigureByteRun :=
  fun _ => ⟨maskedByteRun fun _ => rfl, maskedByteRun fun _ => rfl⟩

/-- Settles O15: both commands are masked updates of `DIR`, and the `Chip` handle is 16 bits wide. -/
theorem configureWordRun : Obligations.ConfigureWordRun := by
  refine fun k => ⟨maskedWordRun nofun fun p hm => ?_, maskedWordRun nofun fun p hm => ?_⟩
  all_goals rw [Claims.maskedKind, hm]; rfl

/-- Settles O28: the exceptional end leaves the engine `Idle` with the tags as they were, so the gate permits the
command again. -/
theorem failedConfigurationCanBeReissued : Obligations.FailedConfigurationCanBeReissued := by
  intro s k i q e landed rest hi hp ho hw htag hq hb
  rw [State.outstanding_eq hp ho hw] at hq
  let t := (({ s with busIn := rest }).failEffect q landed).raiseBusError e
  have htag' : t.tag k = .unconfigured := (State.tag_congr (by simp [t]) k).trans htag
  have hpermitted : t.tag i.slot = requiredTag i.op := by
    rcases hi with rfl | rfl <;> exact htag'
  exact ⟨t, _, exec_err hp ho hq hb, rfl, htag', exec_start rfl (by simpa [t] using hw) hpermitted, rfl, rfl, rfl⟩

end Sys2Proof.Machine

/-! PROOFS. 42_output.md: `WRITE` and the read commands from acceptance to response, on a `Port` or `Pin` handle and on
the `Chip` handle (O16, O17, O18, O19), and the round trip through the latch on the mock chip (O32). -/

namespace Sys2Proof.Machine

/-! ## `WRITE` -/

/-- Settles O16: `WRITE` on a `Port` or `Pin` handle is a masked update of `GPIO`. -/
theorem writeByteRun : Obligations.WriteByteRun := fun _ _ => maskedByteRun fun _ => rfl

/-- The latch that a write of a bank's `GPIO` sets as well is that bank's `OLAT`, on the mock chip only (R62). -/
theorem coupledLatch_gpio_eq_some_iff {p : Params} (hv : p.regs.valid = true) {b : Bank} {l : RegAddr} :
    coupledLatch p (addr p.regs .gpio b) = some l ↔ p.chip = .coupled ∧ l = addr p.regs .olat b := by
  have hBA : addr p.regs .gpio .B ≠ addr p.regs .gpio .A := (gpio_not_reached hv (by decide)).left
  unfold coupledLatch
  cases p.chip with
  | plain => simp
  | coupled => cases b <;> simp [hBA, eq_comm]

/-- A bank's latch is neither the other bank's `GPIO` nor the latch coupled to it. -/
theorem olat_not_reached {p : Params} (hv : p.regs.valid = true) {b b' : Bank} (h : b ≠ b') :
    addr p.regs .olat b ≠ addr p.regs .gpio b' ∧
      coupledLatch p (addr p.regs .gpio b') ≠ some (addr p.regs .olat b) :=
  ⟨addr_ne_of_kind_ne hv (by decide) b b',
    fun e => h (addr_inj hv ((coupledLatch_gpio_eq_some_iff hv).1 e).right).right⟩

section
variable {s : State} (d : DevAddr) {a b l : RegAddr} (v : Word) (rest : List Completion) (i : Instr)

/-- The latch of the first register keeps its byte unless the second write reaches it (R62). -/
theorem State.reg_concludeWord_firstLatch (hm : s.mem.wf = true) (hl : coupledLatch s.params a = some l)
    (hlb : l ≠ b) (hlatch : coupledLatch s.params b ≠ some l) :
    (s.concludeWord d a b v rest i).reg d l = lowByte v := by
  rw [State.concludeWord, State.reg_conclude_wr, State.reg_busWrite_other, State.reg_proceed_wr]
  · exact State.reg_busWrite_coupled hm d _ hl
  · exact .inr ⟨hlb, by rwa [State.proceed_params]⟩

theorem State.reg_concludeWord_secondLatch (hm : s.mem.wf = true) (hl : coupledLatch s.params b = some l) :
    (s.concludeWord d a b v rest i).reg d l = highByte v := by
  rw [State.concludeWord, State.reg_conclude_wr]
  refine State.reg_busWrite_coupled ?_ d _ (by rwa [State.proceed_params])
  rw [State.proceed_wr_mem]
  exact State.busWrite_wf hm d a _

end

/-- Settles O17: the plan is `write16` of the operand, and neither write reaches what the other one wrote. -/
theorem writeWordRun : Obligations.WriteWordRun := by
  intro k v s rest hmem hv hp hm hw htag hb a b
  have hplan (cur : Latch) := planWrite_word s.params s.devAddr k v cur hm
  obtain ⟨hab, hreach⟩ := gpio_not_reached hv (b := .B) (b' := .A) (by decide)
  let t₁ := s.begin (encode (.write k v))
  let t₂ := t₁.proceed (.wr s.devAddr a (lowByte v)) (.ok :: rest)
  have h₁ : t₁.Running (.write k v) (.wr s.devAddr a (lowByte v)) := .of_begin hw (congrArg (·[0]?) (hplan _))
  have h₂ : t₂.Running (.write k v) (.wr s.devAddr b (highByte v)) := h₁.proceed (congrArg (·[1]?) (hplan _))
  refine ⟨t₁, t₂, _, exec_start hp hw htag, h₁.exec_proceed hb Nat.one_lt_two,
    h₂.exec_conclude (t₁.proceed_busIn ..) (by simp [t₁, t₂, planLength, Instr.op]), h₁.outstanding, h₂.outstanding,
    rfl, rfl, ?tags, ?regA, ?regB, ?latchA, ?latchB, ?others, ?log, ?issued, ?busIn, ?frame⟩
  case tags => simp [State.conclude, commitTag, Instr.op, t₁, t₂]
  case regA => exact State.reg_concludeWord_first (s := t₁) _ _ _ v rest _ hmem hab hreach
  case regB => exact State.reg_concludeWord_second (s := t₁) _ _ _ v rest _ hmem
  case latchA =>
    intro l hl
    obtain ⟨-, rfl⟩ := (coupledLatch_gpio_eq_some_iff hv).1 hl
    obtain ⟨hlb, hlatch⟩ := olat_not_reached hv (b := .A) (b' := .B) (by decide)
    exact State.reg_concludeWord_firstLatch (s := t₁) _ v rest _ hmem hl hlb hlatch
  case latchB => exact fun l hl => State.reg_concludeWord_secondLatch (s := t₁) _ v rest _ hmem hl
  case others => exact fun d a' h => State.reg_concludeWord_other (s := t₁) _ _ _ v rest _ h
  case log => exact (State.conclude_wr_log ..).trans (by simp [t₁, t₂, lowByte, highByte])
  case issued => simp [t₁, t₂]
  case busIn => simp
  case frame => simp [Claims.SameFrame, t₁, t₂]

/-! ## The read commands -/

section
variable {s : State} {i : Instr} (rest : List Completion)

/-- A command without a masked update returns what `CUR` holds for its handle after its last read (R104, R108). -/
theorem State.conclude_output_of_not_masked {p : Params} (hk : Claims.maskedKind i p = none) (d : DevAddr)
    (a : RegAddr) : (s.conclude (.rd d a) rest i).output =
      some (okResponse (extractResult s.params.mode i.slot (latchByte s.stepNo (s.reg d a) s.cur))) := by
  cases i with
  | read _ | rdLatch _ => rfl
  | _ => cases hk

/-- A command without a masked update commits no tag (R104). -/
theorem State.conclude_tags_of_not_masked {p : Params} (hk : Claims.maskedKind i p = none) (q : Request) :
    (s.conclude q rest i).tags = s.tags := by
  cases i with
  | read _ | rdLatch _ => simp [State.conclude, commitTag, Instr.op]
  | _ => cases hk

@[simp] theorem State.conclude_rd_mem (d : DevAddr) (a : RegAddr) : (s.conclude (.rd d a) rest i).mem = s.mem :=
  State.finish_mem ..

@[simp] theorem State.conclude_rd_log (d : DevAddr) (a : RegAddr) :
    (s.conclude (.rd d a) rest i).log = s.log ++ [.rd d a (s.reg d a)] :=
  State.finish_log ..

end

/-- On a `Port` or `Pin` handle the result is the byte, or the slot's bit of it (R108). -/
theorem extractResult_byte {m : Mode} (hm : m ≠ .chip) (k : Slot) (cur : Latch) :
    extractResult m k cur =
      if m = .port then cur.lo.setWidth 16 else if cur.lo.getLsbD (slotBit k) then 1 else 0 := by
  cases m with
  | chip => exact absurd rfl hm
  | port => rfl
  | pin =>
    have hbit := BitVec.and_one_eq_setWidth_ofBool_getLsbD (x := cur.lo >>> slotBit k)
    rw [BitVec.getLsbD_ushiftRight, Nat.add_zero] at hbit
    refine (congrArg (BitVec.setWidth 16) hbit).trans ?_
    cases cur.lo.getLsbD (slotBit k) <;> rfl

/-- The whole run: acceptance and one read (R102, R108). -/
theorem readByteRun {i : Instr} (hk : ∀ p, Claims.maskedKind i p = none) :
    Claims.ReadByteRun i (requiredTag i.op) (accessedKind i.op) := by
  intro s rest hp hm hw htag hb a x result
  have hplan (cur : Latch) := (planOf_of_not_masked (hk s.params) s.devAddr cur).trans (readPlan_byte _ _ _ _ hm)
  have hlen : planLength i.op s.params.mode = 1 := by rw [← planOf_length i s.params s.devAddr s.cur, hplan]; rfl
  let t₁ := s.begin (encode i)
  have h₁ : t₁.Running i (.rd s.devAddr a) := .of_begin hw (congrArg (·[0]?) (hplan _))
  have hresult : extractResult s.params.mode i.slot (latchByte 0 x t₁.cur) = result := extractResult_byte hm _ _
  refine ⟨t₁, _, exec_start hp hw htag, h₁.exec_conclude hb (by simp [t₁, hlen]), h₁.busy, rfl, h₁.outstanding, rfl,
    ?output, State.conclude_tags_of_not_masked rest (hk s.params) _, ?mem, ?log, ?issued, ?busIn, ?frame⟩
  case output =>
    rw [← hresult]
    exact State.conclude_output_of_not_masked rest (hk s.params) _ _
  case mem => simp [t₁]
  case log => simp [t₁, x]
  case issued => simp [t₁]
  case busIn => simp
  case frame => simp [Claims.SameFrame, t₁]

/-- The whole run: acceptance and the reads of both banks (R52, R102, R108). -/
theorem readWordRun {i : Instr} (hk : ∀ p, Claims.maskedKind i p = none) :
    Claims.ReadWordRun i (requiredTag i.op) (accessedKind i.op) := by
  intro s rest hp hm hw htag hb a b x y
  have hplan (cur : Latch) := (planOf_of_not_masked (hk s.params) s.devAddr cur).trans (readPlan_word _ _ _ _ hm)
  have hlen : planLength i.op s.params.mode = 2 := by rw [← planOf_length i s.params s.devAddr s.cur, hplan]; rfl
  let t₁ := s.begin (encode i)
  let t₂ := t₁.proceed (.rd s.devAddr a) (.ok :: rest)
  have h₁ : t₁.Running i (.rd s.devAddr a) := .of_begin hw (congrArg (·[0]?) (hplan _))
  have h₂ : t₂.Running i (.rd s.devAddr b) := h₁.proceed (congrArg (·[1]?) (hplan _))
  refine ⟨t₁, t₂, _, exec_start hp hw htag, h₁.exec_proceed hb (by simp [t₁, hlen]),
    h₂.exec_conclude rfl (by simp [t₁, t₂, hlen]), h₁.outstanding, h₂.outstanding, rfl, ?output, ?tags, ?mem, ?log,
    ?issued, ?busIn, ?frame⟩
  case output =>
    refine (State.conclude_output_of_not_masked rest (hk s.params) _ _).trans ?_
    simp [t₁, t₂, hm, latchByte, extractResult, Latch.word, joinBytes, okResponse, x, y]
  case tags => exact (State.conclude_tags_of_not_masked rest (hk s.params) _).trans (by simp [t₁, t₂])
  case mem => simp [t₁, t₂]
  case log => simp [t₁, t₂, x, y]
  case issued => simp [t₁, t₂]
  case busIn => simp
  case frame => simp [Claims.SameFrame, t₁, t₂]

/-- Settles O18: `READ` reads `GPIO` and `RD_LATCH` reads `OLAT`. -/
theorem readCommandsByteRun : Obligations.ReadCommandsByteRun :=
  fun _ => ⟨readByteRun fun _ => rfl, readByteRun fun _ => rfl⟩

/-- Settles O19: `READ` reads `GPIO` and `RD_LATCH` reads `OLAT`, of both banks. -/
theorem readCommandsWordRun : Obligations.ReadCommandsWordRun :=
  fun _ => ⟨readWordRun fun _ => rfl, readWordRun fun _ => rfl⟩

/-! ## The round trip through the latch -/

section
variable {i : Instr} {s₀ s₁ s₂ s₃ : State}

theorem execTimes_two (h₁ : exec i s₀ = .next s₁) (h₂ : exec i s₁ = .next s₂) : execTimes 2 i s₀ = .next s₂ := by
  simp [execTimes, h₁, h₂]

theorem execTimes_three (h₁ : exec i s₀ = .next s₁) (h₂ : exec i s₁ = .next s₂) (h₃ : exec i s₂ = .next s₃) :
    execTimes 3 i s₀ = .next s₃ := by
  rw [execTimes, h₁]
  exact execTimes_two h₂ h₃

end

/-- An operand that fits has no bit at or above the handle's width (R73). -/
theorem getLsbD_of_operandFits {m : Mode} {v : Word} (h : m.operandFits v = true) {j : Nat} (hj : m.width ≤ j) :
    v.getLsbD j = false := by
  have hbit : (v >>> m.width).getLsbD (j - m.width) = false := by simp [beq_iff_eq.1 h]
  rwa [BitVec.getLsbD_ushiftRight, Nat.add_sub_cancel' hj] at hbit

/-- What a handle reads of the byte that a masked update made for it is the operand, whatever the byte was before
(R106, R108). -/
theorem extractResult_newByte {m : Mode} (hm : m ≠ .chip) {v : Word} (hv : m.operandFits v = true) (k : Slot)
    (old hi : Byte) : extractResult m k ⟨newByte m k v old, hi⟩ = v := by
  refine BitVec.eq_of_getLsbD_eq fun j _ => ?_
  obtain ⟨-, hport, hpin⟩ := readResultBits k ⟨newByte m k v old, hi⟩ j
  obtain ⟨-, -, -, hportNew, hpinNew⟩ := maskedUpdateByMode k v ⟨old, hi⟩
  cases m with
  | chip => exact absurd rfl hm
  | port =>
    rw [hport, hportNew]
    rcases Nat.lt_or_ge j 8 with hj | hj
    · exact lowByte_getLsbD v hj
    · rw [BitVec.getLsbD_of_ge _ _ hj, getLsbD_of_operandFits hv hj]
  | pin =>
    rw [hpin, hpinNew _ (slotBit_lt k), if_pos rfl]
    rcases Nat.eq_zero_or_pos j with rfl | hj
    · simp
    · simp [hj.ne', getLsbD_of_operandFits hv hj]

theorem operandFits_of_wf_write {p : Params} {k : Slot} {v : Word} (h : (Instr.write k v).wf p = true) :
    p.mode.operandFits v = true :=
  (Bool.and_eq_true_iff.1 h).right

/-- Settles O32: `WRITE` gives the latch of the mock chip what it gives `GPIO` (O16, O17), and `RD_LATCH` reads it back
(O18, O19). -/
theorem latchReadsBackWrite : Obligations.LatchReadsBackWrite := by
  refine ⟨?byte, ?word⟩
  case byte =>
    intro s k v rest hmem hv hchip hm hp hw hr htag hb
    obtain ⟨t₁, t₂, t, e₁, e₂, e₃, -, -, -, -, -, -, hidle, hout, htags, -, hlatch, -, -, -, hbus, hpar, hdev, -⟩ :=
      writeByteRun k v s (.ok :: rest) hmem hp hm hw htag hb
    have hm' : t.params.mode ≠ .chip := by rwa [hpar]
    have htag' : t.tag k = .output := (htags k).trans ((if_pos rfl).trans htag)
    obtain ⟨u₁, u, f₁, f₂, -, -, -, -, hread, -⟩ :=
      (readCommandsByteRun k).right t rest hidle hm' (by rwa [hpar]) htag' hbus
    have holat : t.reg t.devAddr (addr t.params.regs .olat (slotBank k)) =
        newByte t.params.mode k v (s.reg s.devAddr (addr s.params.regs .gpio (slotBank k))) := by
      rw [hdev, hpar]
      exact hlatch _ ((coupledLatch_gpio_eq_some_iff hv).2 ⟨hchip, rfl⟩)
    have hresult := extractResult_newByte hm' (operandFits_of_wf_write (hpar.symm ▸ hw)) k
      (s.reg s.devAddr (addr s.params.regs .gpio (slotBank k))) 0
    rw [← holat, extractResult_byte hm'] at hresult
    exact ⟨t, u, execTimes_three e₁ e₂ e₃, execTimes_two f₁ f₂, hout,
      hread.trans (congrArg (some <| okResponse ·) hresult)⟩
  case word =>
    intro s k v rest hmem hv hchip hm hp hw hr htag hb
    obtain ⟨t₁, t₂, t, e₁, e₂, e₃, -, -, hidle, hout, htags, -, -, hlatchA, hlatchB, -, -, -, hbus, hpar, hdev, -⟩ :=
      writeWordRun k v s (.ok :: .ok :: rest) hmem hv hp hm hw htag hb
    have htag' : t.tag k = .output := (State.tag_congr htags k).trans htag
    obtain ⟨u₁, u₂, u, f₁, f₂, f₃, -, -, -, hread, -⟩ :=
      (readCommandsWordRun k).right t rest hidle (by rwa [hpar]) (by rwa [hpar]) htag' hbus
    have hcoupled (b : Bank) := (coupledLatch_gpio_eq_some_iff hv (b := b)).2 ⟨hchip, rfl⟩
    rw [hpar, hdev, hlatchA _ (hcoupled .A), hlatchB _ (hcoupled .B)] at hread
    exact ⟨t, u, execTimes_three e₁ e₂ e₃, execTimes_three f₁ f₂ f₃, hout,
      hread.trans (congrArg (some <| okResponse ·) (joinBytes_split v))⟩

end Sys2Proof.Machine

/-! PROOFS. 43_input.md: `SET_PULL` from acceptance to response, on a `Port` or `Pin` handle (O20) and on the `Chip`
handle (O21). -/

namespace Sys2Proof.Machine

/-- Settles O20: `SET_PULL` on a `Port` or `Pin` handle is a masked update of `PULL` with the operand, and commits no
tag. -/
theorem setPullByteRun : Obligations.SetPullByteRun := fun _ _ => maskedByteRun fun _ => rfl

/-- Settles O21: on the `Chip` handle too, where both banks are read and both bytes of the operand written. -/
theorem setPullWordRun : Obligations.SetPullWordRun := fun _ _ => maskedWordRun nofun fun _ _ => rfl

end Sys2Proof.Machine

/-! PROOFS. 44_interrupt_config.md: `INT_EN`, `INT_MODE` and `INT_DEF` from acceptance to response, on a `Port` or `Pin`
handle (O22) and on the `Chip` handle (O23). Each is the masked update of its own kind (R148). -/

namespace Sys2Proof.Machine

/-- Settles O22: on a `Port` or `Pin` handle the three commands are masked updates with the operand, of `INTEN`,
`INTCMP` and `INTDEF` in turn, and commit no tag. -/
theorem interruptByteRun : Obligations.InterruptByteRun :=
  fun _ _ => ⟨maskedByteRun fun _ => rfl, maskedByteRun fun _ => rfl, maskedByteRun fun _ => rfl⟩

/-- Settles O23: none of the three is `WRITE`, so on the `Chip` handle each reads both banks of its kind before it
writes the bytes of the operand. -/
theorem interruptWordRun : Obligations.InterruptWordRun :=
  fun _ _ => ⟨maskedWordRun nofun fun _ _ => rfl, maskedWordRun nofun fun _ _ => rfl,
    maskedWordRun nofun fun _ _ => rfl⟩

end Sys2Proof.Machine

/-! PROOFS. 60_exceptions.md: a word that does not decode (O10), the gate (O11, O12), and `ILLEGAL` before `GATED`
(O13). -/

namespace Sys2Proof.Machine

/-- The gate permits a command under exactly one tag (R170). -/
theorem permitted_iff {o : Op} {t : Tag} : permitted o t = true ↔ t = requiredTag o := beq_iff_eq

theorem permitted_eq_false_iff {o : Op} {t : Tag} : permitted o t = false ↔ t ≠ requiredTag o := beq_eq_false_iff_ne

/-- An ill-formed command is refused before its tag is looked at (R164). -/
theorem exec_illegal {i : Instr} {s : State} (hp : s.phase = .idle) (hw : i.wf s.params = false) :
    exec i s = .next (s.respond illegalResponse) := by
  rw [exec_idle i hp, State.accept, if_pos hw]

/-- A command that starts has no response yet (R101), so it does not end `GATED`. -/
theorem State.begin_ne_respond (s : State) (w : CmdWord) (r : Response) : s.begin w ≠ s.respond r := by
  intro h
  have hout : none = some r := congrArg State.output h
  cases hout

/-- "No" in the gate's table means `GATED` (R162, R170): a permitted command starts instead. -/
theorem exec_eq_gated_iff {i : Instr} {s : State} (hp : s.phase = .idle) (hw : i.wf s.params = true) :
    exec i s = .next (s.respond gatedResponse) ↔ permitted i.op (s.tag i.slot) = false := by
  rw [permitted_eq_false_iff]
  refine ⟨fun hgated htag => ?_, exec_gated hp hw⟩
  have hstart := exec_start hp hw htag
  rw [hgated, Host.Outcome.next.injEq] at hstart
  exact s.begin_ne_respond _ _ hstart.symm

/-- Settles O10: the turn is the host's, and its word is refused at the decoder. -/
theorem illegalWordAnswered : Obligations.IllegalWordAnswered := by
  intro s w why rest hturn hp hr hd
  rw [step_engine hturn]
  exact engineMove_issue_illegal (s := { s with envIn := s.envIn.tail }) hp hr hd

/-- Settles O11: the gate refuses every tag but the required one. -/
theorem gatedCommandAnswered : Obligations.GatedCommandAnswered :=
  fun _ _ hp hw hno => exec_gated hp hw (permitted_eq_false_iff.1 hno)

/-- Settles O12: each row of the table has its one "yes", and "no" is `GATED` because a permitted command starts. -/
theorem gateTable : Obligations.GateTable :=
  ⟨fun _ => permitted_iff, fun _ => permitted_iff, fun _ => permitted_iff, fun _ => permitted_iff,
    fun _ => permitted_iff, fun _ => permitted_iff, fun _ => permitted_iff, fun _ => permitted_iff,
    fun _ => permitted_iff, fun _ _ hp hw => (exec_eq_gated_iff hp hw).symm⟩

/-- Settles O13: well-formedness is checked before the gate. -/
theorem illegalBeforeGated : Obligations.IllegalBeforeGated := fun _ _ => exec_illegal

end Sys2Proof.Machine

/-! PROOFS. 70_reset_and_hazards.md: a torn `Chip` read (O31) and the Reset step (O35). -/

namespace Sys2Proof.Machine

/-! ## Races with another agent -/

/-- The transaction outstanding does not depend on the register space, so another agent's write leaves it as it is
(R27, R58). -/
theorem State.Running.setReg {s : State} {i : Instr} {q : Request} (h : s.Running i q) (d : DevAddr) (a : RegAddr)
    (v : Byte) : (s.setReg d a v).Running i q :=
  ⟨h.busy, h.decodes, h.outstanding⟩

/-- Settles O31: the old low byte is in `CUR`, which the other agent's writes do not touch, and the second read takes
the new high byte from its register. -/
theorem chipReadCanTear : Obligations.ChipReadCanTear := by
  intro s k x y rest hmem hp hm ho hw h0 hb a b
  have hplan (cur : Latch) : planOf (.read k) s.params s.devAddr cur = [.rd s.devAddr a, .rd s.devAddr b] :=
    readPlan_word .gpio s.params s.devAddr k hm
  have hlen : planLength (Instr.read k).op s.params.mode = 2 := by rw [hm]; rfl
  have h₀ : s.Running (.read k) (.rd s.devAddr a) :=
    ⟨hp, by rw [ho, decode_encode hw], by rw [State.outstanding_eq hp ho hw, hplan, h0]; rfl⟩
  let t₁ := s.proceed (.rd s.devAddr a) (.ok :: rest)
  let u := (t₁.setReg s.devAddr a x).setReg s.devAddr b y
  have h₁ : t₁.Running (.read k) (.rd s.devAddr b) := h₀.proceed (by rw [hplan, h0]; rfl)
  have hu : u.Running (.read k) (.rd s.devAddr b) := (h₁.setReg ..).setReg ..
  have hcur : u.cur = { s.cur with lo := s.reg s.devAddr a } := by simp [u, t₁, latchByte, h0]
  have hreg : u.reg s.devAddr b = y :=
    State.reg_setReg_same (s := t₁.setReg s.devAddr a x) (State.setReg_wf (s := t₁) hmem ..) ..
  refine ⟨t₁, u.conclude (.rd s.devAddr b) rest (.read k), h₀.exec_proceed hb (by simp [hlen, h0]),
    hu.exec_conclude rfl (by simp [u, t₁, hlen, h0]), ?_⟩
  rw [State.conclude_output_of_not_masked (p := s.params) rest rfl, hcur, hreg]
  simp [u, t₁, h0, hm, latchByte, extractResult, Latch.word, joinBytes, okResponse]

/-! ## Reset -/

/-- The host's `Reset(dev)` resets the engine (R190). -/
theorem engineMove_reset {s : State} {dev : DevAddr} {rest : List HostReq} (hp : s.phase = .idle)
    (hr : s.hostIn = .reset dev :: rest) : engineMove s = .next (({ s with hostIn := rest }).resetEngine dev) := by
  simp [engineMove, hostMove, hp, hr]

/-- Settles O35: the turn is the host's, and the Reset operation changes the fields R190 names and no other that the
statement speaks of. -/
theorem resetStep : Obligations.ResetStep := by
  intro s dev rest hturn hp hr
  rw [step_engine hturn]
  exact ⟨_, engineMove_reset (s := { s with envIn := s.envIn.tail }) hp hr, rfl,
    fun k => State.tag_resetEngine _ k dev, rfl, rfl, rfl, rfl, rfl, rfl, rfl, rfl, rfl⟩

end Sys2Proof.Machine
